-- ==== Sys2Proof/Word.lean ====
section
/-! DEFINITION. The word types of DVB-VOICE (30_encoding.md R80, R81; 10_state.md R23; decision D9). -/

namespace Sys2Proof

/-- One byte: a payload byte, an 8-bit instrument register, a sample RAM byte. -/
abbrev Byte := BitVec 8

/-- A 32-bit command word, response word or PCM length field (R80, R84, R89). -/
abbrev Word := BitVec 32

/-- The 4-bit `voice` field of a command word (R81): a voice handle 0..15. -/
abbrev Handle := BitVec 4

/-- The 24-bit `operand` field of a command word (R81). -/
abbrev Operand := BitVec 24

/-- A 7-bit note or velocity (10_state.md R39). -/
abbrev SevenBit := BitVec 7

end Sys2Proof
end

