-- ==== Sys2Proof/Config.lean ====
section
/-! DEFINITION. What the spec makes configuration (10_state.md R42): the constants of 00_scope.md R5 and
R6, the OPEN parameters of R7, the functions of R8, and the free values of storage the spec leaves
unspecified. The OPEN ones are opaque constants without a body: every claim about the machine holds
whatever they are. Operations take a `Config`, so that they can also be run under the spec's test
configuration TC0 (R13); the machine itself runs under `Config.hw`. -/

namespace Sys2Proof

/-- `TICK_HZ` (R5): the fixed rate of the tick clock. -/
def tickHz : Nat := 50

/-- `MAX_VOLUME` (R5): the top of the envelope's range. -/
def maxVolume : Nat := 64

/-- `VEL_MAX` (R5): the largest velocity. -/
def velMax : Nat := 127

/-- `SEQ_MAX` and `ARP_MAX` (R5): the number of entries of each table. -/
def tableMax : Nat := 16

/-- `PCM_NORM` (R6): maps a signed byte into [-1, 1). -/
def pcmNorm : Nat := 128

/-- `SYNTH_BLOB_MIN` (R6): bytes of a WavetableSynth blob. -/
def synthBlobMin : Nat := 80

/-- `PCM_BLOB_MIN` (R6): bytes of a PcmSample blob's header. -/
def pcmBlobMin : Nat := 16

/-- The parameters and functions the spec takes as configuration (R6 `NVOICES`, R7, R8). -/
structure Config where
  /-- `NVOICES`: the number of voice slots. -/
  nvoices : Nat
  /-- `NWAVES`: the number of waves of the wave ROM. -/
  nwaves : Nat
  /-- `WAVE_LEN[w]`. -/
  waveLen : Nat → Nat
  /-- `WAVE_DATA[w][i]`. -/
  waveData : Nat → Nat → Int
  /-- `WAVE_NORM`. -/
  waveNorm : Nat
  /-- `PCM_MAX_LEN`: the size of each sample RAM. -/
  pcmMaxLen : Nat
  /-- `NATIVE_FREQ`. -/
  nativeFreq : ℚ
  /-- `VIB_STEPS`. -/
  vibSteps : Nat
  /-- `VIB_DEPTH_CENTS`. -/
  vibDepthCents : ℚ
  /-- `FINETUNE_CENTS`. -/
  finetuneCents : ℚ
  /-- `NOTE2FREQ(n)`. -/
  note2freq : Int → ℚ
  /-- `CENTS2RATIO(c)`. -/
  cents2ratio : ℚ → ℚ
  /-- `SIN(x)`, x a fraction of one cycle. -/
  sin : ℚ → ℚ

/-- The constraints R6 and R7 put on the parameters, and the signatures and named properties R8 gives
the functions. -/
structure Config.Admissible (c : Config) : Prop where
  nvoices_pos : 1 ≤ c.nvoices
  nvoices_le : c.nvoices ≤ 16
  nwaves_pos : 1 ≤ c.nwaves
  nwaves_le : c.nwaves ≤ 256
  waveLen_pos : ∀ w, 0 < c.waveLen w
  waveNorm_pos : 0 < c.waveNorm
  waveData_bound : ∀ w i, |c.waveData w i| ≤ (c.waveNorm : Int)
  pcmMaxLen_lt : c.pcmMaxLen < 2 ^ 24
  nativeFreq_pos : 0 < c.nativeFreq
  vibSteps_pos : 0 < c.vibSteps
  vibDepthCents_nonneg : 0 ≤ c.vibDepthCents
  note2freq_pos : ∀ n, 0 < c.note2freq n
  note2freq_tuning : c.note2freq 69 = 440
  note2freq_octave : ∀ n, c.note2freq (n + 12) = 2 * c.note2freq n
  cents2ratio_pos : ∀ x, 0 < c.cents2ratio x
  cents2ratio_zero : c.cents2ratio 0 = 1
  cents2ratio_octave : c.cents2ratio 1200 = 2
  cents2ratio_octave_down : c.cents2ratio (-1200) = 1 / 2
  sin_lower : ∀ x, -1 ≤ c.sin x
  sin_upper : ∀ x, c.sin x ≤ 1
  sin_zero : c.sin 0 = 0
  sin_quarter : c.sin (1 / 4) = 1
  sin_half : c.sin (1 / 2) = 0
  sin_three_quarters : c.sin (3 / 4) = -1

/-! ## The OPEN parameters of the machine

Each is opaque: Lean can prove no value of it. The types leave exactly the values R6 and R7 allow. -/

/-- `NVOICES - 1` (R6: any value 1..16). -/
opaque Config.nvoicesPred : Fin 16

/-- `NWAVES - 1` (R7: 1..256). -/
opaque Config.nwavesPred : Fin 256

/-- `WAVE_LEN[w]` (R7: > 0). -/
opaque Config.waveLength : Nat → ℕ+

/-- `WAVE_NORM` (R7: > 0). -/
opaque Config.waveNormalisation : ℕ+

/-- `WAVE_DATA[w][i]` before the bound `WAVE_NORM` of R7 is put on it. -/
opaque Config.waveEntry : Nat → Nat → Int

/-- `PCM_MAX_LEN` (R7: below 2^24). -/
opaque Config.pcmCeiling : Fin 16777216

/-- Numerator and denominator of `NATIVE_FREQ` (R7: a rational > 0). -/
opaque Config.nativeFrequency : ℕ+ × ℕ+

/-- `VIB_STEPS` (R7: > 0). -/
opaque Config.vibratoSteps : ℕ+

/-- `VIB_DEPTH_CENTS` (R7: a rational ≥ 0). -/
opaque Config.vibratoDepthCents : ℚ≥0

/-- `FINETUNE_CENTS` (R7: a rational). -/
opaque Config.finetuneUnit : ℚ

/-- Numerator and denominator of `NOTE2FREQ` at note 69 + r, 0 < r < 12 (R8). -/
opaque Config.semitoneFrequency : Nat → ℕ+ × ℕ+

/-- Numerator and denominator of `CENTS2RATIO` where R8 pins no value. -/
opaque Config.centsRatio : ℚ → ℕ+ × ℕ+

/-- `SIN` where R8 pins no value, before it is bounded to [-1, 1]. -/
opaque Config.sineValue : ℚ → ℚ

/-! ## Free values (10_state.md R44, 93_implementation_defined.md U3)

`draw` numbers the occasions on which storage became unspecified, `which` the register. -/

/-- A byte nothing constrains. -/
opaque Config.freeByte : (draw which : Nat) → Byte

/-- A 32-bit word nothing constrains. -/
opaque Config.freeWord : (draw which : Nat) → Word

/-- A bit nothing constrains. -/
opaque Config.freeBit : (draw which : Nat) → Bool

/-! ## The machine's configuration -/

/-- The rational a pair of positive integers stands for. -/
def ratioOf (p : ℕ+ × ℕ+) : ℚ := (p.1 : Nat) / (p.2 : Nat)

/-- `2^q` for an integer q. -/
def octaves : Int → ℚ
  | .ofNat k => ((2 ^ k : Nat) : ℚ)
  | .negSucc k => 1 / ((2 ^ (k + 1) : Nat) : ℚ)

/-- `NOTE2FREQ` (R8): 440 at note 69, doubled by every 12 notes, free at the eleven notes between. -/
def Config.noteToFrequency (n : Int) : ℚ :=
  octaves ((n - 69) / 12) *
    (if (n - 69) % 12 = 0 then 440 else ratioOf (Config.semitoneFrequency ((n - 69) % 12).toNat))

/-- `CENTS2RATIO` (R8): its three pinned values, free and positive elsewhere. -/
def Config.centsToRatio (c : ℚ) : ℚ :=
  if c = 0 then 1
  else if c = 1200 then 2
  else if c = -1200 then 1 / 2
  else ratioOf (Config.centsRatio c)

/-- `SIN` (R8): its four pinned values, free in [-1, 1] elsewhere. -/
def Config.sine (x : ℚ) : ℚ :=
  if x = 0 then 0
  else if x = 1 / 4 then 1
  else if x = 1 / 2 then 0
  else if x = 3 / 4 then -1
  else max (-1) (min 1 (Config.sineValue x))

/-- The configuration the machine runs under: any one R6, R7 and R8 allow. -/
def Config.hw : Config where
  nvoices := Config.nvoicesPred.val + 1
  nwaves := Config.nwavesPred.val + 1
  waveLen w := Config.waveLength w
  waveData w i :=
    max (-((Config.waveNormalisation : Nat) : Int))
      (min ((Config.waveNormalisation : Nat) : Int) (Config.waveEntry w i))
  waveNorm := Config.waveNormalisation
  pcmMaxLen := Config.pcmCeiling.val
  nativeFreq := ratioOf Config.nativeFrequency
  vibSteps := Config.vibratoSteps
  vibDepthCents := (Config.vibratoDepthCents : ℚ)
  finetuneCents := Config.finetuneUnit
  note2freq := Config.noteToFrequency
  cents2ratio := Config.centsToRatio
  sin := Config.sine

end Sys2Proof
end

