-- ==== Sys2Proof/Syntax.lean ====
section
/-! DEFINITION. The commands of DVB-VOICE (30_encoding.md R83) and the form in which the host issues them. -/

namespace Sys2Proof

/-- One host command as issued (R80): the 32-bit word, passed whole (R66), and the payload bytes that
follow it. -/
structure HostCommand where
  /-- The command word (R81). -/
  word : Word
  /-- The payload: L bytes for LOAD_INSTRUMENT, none for any other command (R80). -/
  payload : List Byte
deriving DecidableEq, Repr

/-- The ten commands of the opcode map (R83). Reserved fields, which the block ignores (R86), are no
operands. -/
inductive Instr where
  /-- `INIT rate` (45_host_commands.md R211). -/
  | init (sampleRate : Operand)
  /-- `DISPOSE` (R212). -/
  | dispose
  /-- `CREATE_VOICE` (R213). -/
  | createVoice
  /-- `DESTROY_VOICE v` (R214). -/
  | destroyVoice (voice : Handle)
  /-- `LOAD_INSTRUMENT v, payload` (40_load_instrument.md R110); L is the payload's length. -/
  | loadInstrument (voice : Handle) (payload : List Byte)
  /-- `NOTE_ON v, note, velocity` (R216). -/
  | noteOn (voice : Handle) (note velocity : SevenBit)
  /-- `NOTE_OFF v` (R217). -/
  | noteOff (voice : Handle)
  /-- `RENDER v, numSamples` (44_render.md R190). -/
  | render (voice : Handle) (numSamples : Operand)
  /-- `SET_PARAM v, index, value` (R221). -/
  | setParam (voice : Handle) (index : Byte) (value : BitVec 16)
  /-- `GET_PARAM v, index` (R222). -/
  | getParam (voice : Handle) (index : Byte)
deriving DecidableEq, Repr

end Sys2Proof
end

