-- ==== Sys2Proof/Machine/State.lean ====
section
/-! DEFINITION. The architectural state of DVB-VOICE (10_state.md), its reset (R45, R270), and the reasons
a step can stop. Every field is plain data. -/

namespace Sys2Proof.Machine

/-! ## Sample RAM -/

/-- One sample RAM (10_state.md R27, 20_memory.md R62): the bytes that hold a value, by rising address.
An address that is not listed holds no value: the spec leaves its content unspecified. -/
abbrev Memory := List Host.Cell

/-! ## Instrument registers -/

/-- `I.kind` (R22). -/
inductive InstrumentKind where
  /-- Blob code 0. -/
  | wavetableSynth
  /-- Blob code 1. -/
  | pcmSample
deriving DecidableEq, Repr

/-- One entry of the sequencer table (R25). -/
structure SeqEntry where
  /-- `I.seq[k].wave`, unsigned. -/
  wave : Byte
  /-- `I.seq[k].transpose`, signed. -/
  transpose : Byte
  /-- `I.seq[k].effect`, unsigned. -/
  effect : Byte
deriving DecidableEq, Repr

/-- The instrument registers of one voice, both tables included (R22 to R26). Signed registers are held
as their two's-complement byte (decision D9). -/
structure Instrument where
  kind : InstrumentKind
  initialWaveIndex : Byte
  sequencerSpeed : Byte
  sequencerLength : Byte
  attackLength : Byte
  attackLevel : Byte
  decayLength : Byte
  decayLevel : Byte
  sustainLength : Byte
  sustainLevel : Byte
  releaseLength : Byte
  vibratoDelay : Byte
  vibratoSpeed : Byte
  vibratoDepth : Byte
  arpeggioLength : Byte
  pcmVolume : Byte
  /-- Signed. -/
  finetune : Byte
  sampleLength : Word
  loopStart : Word
  loopLength : Word
  seq : Vector SeqEntry 16
  /-- Signed semitone offsets. -/
  arp : Vector Byte 16
deriving DecidableEq, Repr

/-! ## Voices -/

/-- `V.envelopeState` (R29). -/
inductive EnvelopeState where
  | off
  | attack
  | decay
  | sustain
  | release
deriving DecidableEq, Repr

/-- One voice slot: its allocation and instrument (R21 to R27) and its dynamic state (R28 to R39).
The rational registers are exact (00_scope.md R9). -/
structure Voice where
  allocated : Bool
  loaded : Bool
  instrument : Instrument
  sram : Memory
  active : Bool
  envelopeState : EnvelopeState
  envelopeVolume : ℚ
  envelopeTicks : Nat
  oscillatorPhase : ℚ
  phaseIncrement : ℚ
  tickAccumulator : ℚ
  vibratoPhase : ℚ
  vibratoDelayRemaining : Nat
  arpeggioIndex : Fin 16
  sequencerStep : Fin 16
  sequencerTickCounter : Nat
  activeWave : Byte
  baseNote : SevenBit
  velocity : SevenBit
deriving DecidableEq, Repr

/-! ## What the host receives -/

/-- One output frame (20_memory.md R64). -/
structure Frame where
  left : ℚ
  right : ℚ
deriving DecidableEq, Repr

/-- What one command hands to the host: its response word (30_encoding.md R84) and, for RENDER, its
frames in order (R64). -/
structure Reply where
  response : Word
  frames : List Frame
deriving DecidableEq, Repr

/-! ## The machine -/

/-- The state of the block and its two host-side lists. -/
structure State where
  /-- `C.valid` (R20). -/
  valid : Bool
  /-- `C.sampleRate` in Hz (R20). -/
  sampleRate : BitVec 24
  /-- `voice[v]` (R21). A handle is four bits wide, so there are 16 places; the block has the first
  `NVOICES` of them. -/
  voices : Vector Voice 16
  /-- The model's own field: how often storage has become unspecified (R44). It selects the free
  values that storage then holds. -/
  unspecifiedDraws : Nat
  /-- The model's own field: the commands the host has issued and the block has not yet performed,
  the next one first (20_memory.md R71). -/
  commands : List HostCommand
  /-- The model's own field: what the block has handed to the host, the oldest first. -/
  replies : List Reply
deriving DecidableEq, Repr

/-- Why a step stops with a fault. The spec has no fault (60_exceptions.md R247): each of these stands
for a read the spec says never happens (20_memory.md R62, R63), and none is reached from reset. -/
inductive Fault where
  /-- Raised by RENDER for a wave ROM index outside `WAVE_DATA` (R63: an address that does not exist).
  Safe: the model stops where the spec describes nothing. -/
  | waveRomAddress
  /-- Raised by RENDER for an index outside the sample RAM (R62: an address that does not exist).
  Safe: the model stops where the spec describes nothing. -/
  | sampleRamAddress
  /-- Raised by RENDER for a sample RAM byte that holds no value (R62: unspecified and never read).
  Safe: the model stops, where the hardware would read some byte. -/
  | unspecifiedSample
deriving DecidableEq, Repr

/-- Why a step has no meaning. -/
inductive Refusal where
  /-- Raised by exec's arm of an instruction that has no meaning yet; no arm of this model does.
  Safe: the model stops. -/
  | notModelled (mnemonic : String)
  /-- Raised by step for a host command whose payload is not as long as its word says, which
  30_encoding.md R80 excludes. Safe: the model stops on an input that is no command. -/
  | payloadLength
deriving DecidableEq, Repr

/-! ## Reset -/

/-- The instrument registers at power-on. The spec leaves them unspecified (R45); the values are the
model's (DESIGN CHOICE, unsafe, log 4). -/
def Instrument.atReset : Instrument where
  kind := .wavetableSynth
  initialWaveIndex := 0
  sequencerSpeed := 0
  sequencerLength := 0
  attackLength := 0
  attackLevel := 0
  decayLength := 0
  decayLevel := 0
  sustainLength := 0
  sustainLevel := 0
  releaseLength := 0
  vibratoDelay := 0
  vibratoSpeed := 0
  vibratoDepth := 0
  arpeggioLength := 0
  pcmVolume := 0
  finetune := 0
  sampleLength := 0
  loopStart := 0
  loopLength := 0
  seq := Vector.replicate 16 ⟨0, 0, 0⟩
  arp := Vector.replicate 16 0

/-- A voice slot at power-on (R45). -/
def Voice.atReset : Voice where
  allocated := false
  loaded := false
  instrument := Instrument.atReset
  sram := []
  active := false
  envelopeState := .off
  envelopeVolume := 0
  envelopeTicks := 0
  oscillatorPhase := 0
  phaseIncrement := 0
  tickAccumulator := 0
  vibratoPhase := 0
  vibratoDelayRemaining := 0
  arpeggioIndex := 0
  sequencerStep := 0
  sequencerTickCounter := 0
  activeWave := 0
  baseNote := 0
  velocity := 0

/-- The machine right after power-on reset (R45, 70_reset_and_hazards.md R270): no Context, no slot
allocated, nothing issued and nothing answered. The start of `unspecifiedDraws` is the model's
(DESIGN CHOICE, log 6). -/
def State.reset : State where
  valid := false
  sampleRate := 0
  voices := Vector.replicate 16 Voice.atReset
  unspecifiedDraws := 16
  commands := []
  replies := []

end Sys2Proof.Machine
end

