-- ==== Sys2Proof/Machine/Ops.lean ====
section
/-! DEFINITION. The named operations the commands share: sample RAM, voice slots, responses, the repeated
subtraction of the wrap rules, and the reset micro-operations (10_state.md R43, R44). The block takes no
exception and returns from none (60_exceptions.md R247, R248), so there is no such operation. -/

namespace Sys2Proof.Machine

/-! ## Sample RAM (20_memory.md R62) -/

/-- The cells stand at strictly rising addresses: the one canonical form of a memory. -/
def Memory.wf : Memory → Bool
  | [] => true
  | [_] => true
  | c :: d :: rest => decide (c.1 < d.1) && Memory.wf (d :: rest)

/-- The byte at an address, or no value where none is specified. -/
def Memory.read? : Memory → Nat → Option Byte
  | [], _ => none
  | c :: rest, a => if c.1 = a then some c.2 else Memory.read? rest a

/-- The cells of consecutive bytes from an address on. -/
def Memory.cellsFrom : Nat → List Byte → Memory
  | _, [] => []
  | a, b :: bs => (a, b) :: Memory.cellsFrom (a + 1) bs

/-- The sample RAM right after its first bytes were written and all else became unspecified
(40_load_instrument.md R116). -/
def Memory.load (bytes : List Byte) : Memory := Memory.cellsFrom 0 bytes

/-- The sample RAM none of whose bytes is specified (R62). -/
def Memory.unspecified : Memory := []

/-! ## Voice slots -/

/-- `voice[v]` (10_state.md R21). -/
def State.voice (s : State) (v : Handle) : Voice := s.voices[v.toNat]'(v.isLt)

/-- Write `voice[v]`. -/
def State.setVoice (s : State) (v : Handle) (x : Voice) : State :=
  { s with voices := s.voices.set v.toNat x (v.isLt) }

/-! ## Responses (30_encoding.md R84, 60_exceptions.md R240) -/

/-- A status code as the 32-bit response word, two's complement. -/
def statusWord (code : Int) : Word := BitVec.ofInt 32 code

/-- `OK`. -/
def statusOk : Word := statusWord 0
/-- `ERR_BAD_HANDLE`. -/
def errBadHandle : Word := statusWord (-1)
/-- The pool-exhausted sentinel of CREATE_VOICE. -/
def poolExhausted : Word := statusWord (-1)
/-- `ERR_SHORT_HEADER`. -/
def errShortHeader : Word := statusWord (-2)
/-- `ERR_SHORT_DATA`. -/
def errShortData : Word := statusWord (-3)
/-- `ERR_ALLOC`. -/
def errAlloc : Word := statusWord (-4)
/-- `ERR_BAD_KIND`. -/
def errBadKind : Word := statusWord (-5)
/-- `ERR_BAD_COMMAND`. -/
def errBadCommand : Word := statusWord (-6)
/-- `ERR_BAD_RATE`. -/
def errBadRate : Word := statusWord (-7)

/-- Hand a response and a frame list to the host. -/
def State.replyWith (s : State) (response : Word) (frames : List Frame) : State :=
  { s with replies := s.replies ++ [⟨response, frames⟩] }

/-- `respond r`: end the command with a response and no frames. -/
def State.respond (s : State) (response : Word) : State := s.replyWith response []

/-! ## The repeated subtraction of the wrap rules -/

/-- `while x >= limit: x <- x - amount`, for `amount > 0` (43_oscillator.md R173, R176;
42_modulation.md R151, R157), in closed form: the number of subtractions is the least that brings x
below the limit. -/
def subtractWhile (x limit amount : ℚ) : ℚ :=
  if x < limit then x else x - amount * ((⌊(x - limit) / amount⌋ + 1 : Int) : ℚ)

/-! ## Unspecified instrument storage (10_state.md R44; 93_implementation_defined.md U3) -/

/-- Instrument registers nothing constrains: the content storage has from the `draw`-th time on that it
became unspecified. -/
def Instrument.unspecified (draw : Nat) : Instrument where
  kind := if Config.freeBit draw 0 then .pcmSample else .wavetableSynth
  initialWaveIndex := Config.freeByte draw 1
  sequencerSpeed := Config.freeByte draw 2
  sequencerLength := Config.freeByte draw 3
  attackLength := Config.freeByte draw 4
  attackLevel := Config.freeByte draw 5
  decayLength := Config.freeByte draw 6
  decayLevel := Config.freeByte draw 7
  sustainLength := Config.freeByte draw 8
  sustainLevel := Config.freeByte draw 9
  releaseLength := Config.freeByte draw 10
  vibratoDelay := Config.freeByte draw 11
  vibratoSpeed := Config.freeByte draw 12
  vibratoDepth := Config.freeByte draw 13
  arpeggioLength := Config.freeByte draw 14
  pcmVolume := Config.freeByte draw 15
  finetune := Config.freeByte draw 80
  sampleLength := Config.freeWord draw 81
  loopStart := Config.freeWord draw 82
  loopLength := Config.freeWord draw 83
  seq := Vector.ofFn fun k =>
    ⟨Config.freeByte draw (16 + 3 * k), Config.freeByte draw (17 + 3 * k),
      Config.freeByte draw (18 + 3 * k)⟩
  arp := Vector.ofFn fun k => Config.freeByte draw (64 + k)

/-! ## Reset micro-operations -/

/-- `PlayReset` (R43). -/
def playReset (v : Voice) : Voice :=
  { v with
    active := false, envelopeState := .off, envelopeVolume := 0, envelopeTicks := 0,
    oscillatorPhase := 0, phaseIncrement := 0,
    vibratoPhase := 0, vibratoDelayRemaining := 0,
    arpeggioIndex := 0, sequencerStep := 0, sequencerTickCounter := 0, activeWave := 0,
    baseNote := 0, velocity := 0 }

/-- `VoiceReset` (R44): PlayReset, no instrument, the tick accumulator 0; the instrument storage becomes
unspecified. -/
def voiceReset (draw : Nat) (v : Voice) : Voice :=
  { playReset v with
    loaded := false, tickAccumulator := 0,
    instrument := Instrument.unspecified draw, sram := Memory.unspecified }

/-- A slot after VoiceReset and with `allocated` cleared. -/
def freeSlot (draw : Nat) (v : Voice) : Voice := { voiceReset draw v with allocated := false }

/-- `for every v: voice[v].allocated <- false; call VoiceReset on voice[v]`
(45_host_commands.md R211, R212). -/
def State.freeAllSlots (s : State) : State :=
  { s with
    voices := Vector.ofFn fun i : Fin 16 => freeSlot (s.unspecifiedDraws + i) s.voices[i]
    unspecifiedDraws := s.unspecifiedDraws + 16 }

/-- VoiceReset of one slot, which leaves `allocated` as given (R213, R214). -/
def State.resetSlot (s : State) (v : Handle) (allocated : Bool) : State :=
  { s.setVoice v { voiceReset s.unspecifiedDraws (s.voice v) with allocated := allocated } with
    unspecifiedDraws := s.unspecifiedDraws + 1 }

end Sys2Proof.Machine
end

