-- ==== Sys2Proof/Machine/Operands.lean ====
section
/-! DEFINITION. The operand forms: payload fields (30_encoding.md R87 to R91, 20_memory.md R66), the
clamps of load time and SET_PARAM (40_load_instrument.md R114), and the parameter indices (R95). -/

namespace Sys2Proof.Machine

/-! ## Payload fields -/

/-- `payload[o]` (R91). Every caller has checked that the payload is long enough
(20_memory.md R61), so the 0 past its end is never used. -/
def payloadByte (payload : List Byte) (o : Nat) : Byte := payload.getD o 0

/-- `LE32(payload, o)` (R66): the byte at the lowest offset is the least significant. -/
def le32 (payload : List Byte) (o : Nat) : Word :=
  BitVec.ofNat 32 ((payloadByte payload o).toNat + 2 ^ 8 * (payloadByte payload (o + 1)).toNat
    + 2 ^ 16 * (payloadByte payload (o + 2)).toNat + 2 ^ 24 * (payloadByte payload (o + 3)).toNat)

/-- `sext_8` (00_scope.md R11): a byte read as two's complement. -/
def sext8 (b : Byte) : Int := b.toInt

/-! ## Clamps -/

/-- `min(b, hi)` as an 8-bit register value, for `hi ≤ 255`. -/
def clampByte (b : Nat) (hi : Nat) : Byte := BitVec.ofNat 8 (min b hi)

/-- `clamp(v, lo, hi)` (00_scope.md R11). -/
def clampQ (v lo hi : ℚ) : ℚ := max lo (min hi v)

/-! ## Parameter indices (R95) -/

/-- The read value of an unsigned 8-bit register. -/
def readUnsigned (b : Byte) : Word := b.zeroExtend 32

/-- The read value of a signed 8-bit register. -/
def readSigned (b : Byte) : Word := b.signExtend 32

/-- The read value of `I.kind`: its blob code. -/
def readKind : InstrumentKind → Word
  | .wavetableSynth => 0
  | .pcmSample => 1

/-- The read value of a field of the sequencer table at byte offset `16 + n`, n < 48. -/
def readSeq (seq : Vector SeqEntry 16) (n : Nat) : Word :=
  let e := seq[Fin.ofNat 16 (n / 3)]
  match n % 3 with
  | 0 => readUnsigned e.wave
  | 1 => readSigned e.transpose
  | _ => readUnsigned e.effect

/-- The read value of a parameter index (R95); 0 for a reserved index. -/
def readParam (x : Instrument) (index : Byte) : Word :=
  match index.toNat with
  | 0 => readKind x.kind
  | 1 => readUnsigned x.initialWaveIndex
  | 2 => readUnsigned x.sequencerSpeed
  | 3 => readUnsigned x.sequencerLength
  | 4 => readUnsigned x.attackLength
  | 5 => readUnsigned x.attackLevel
  | 6 => readUnsigned x.decayLength
  | 7 => readUnsigned x.decayLevel
  | 8 => readUnsigned x.sustainLength
  | 9 => readUnsigned x.sustainLevel
  | 10 => readUnsigned x.releaseLength
  | 11 => readUnsigned x.vibratoDelay
  | 12 => readUnsigned x.vibratoSpeed
  | 13 => readUnsigned x.vibratoDepth
  | 14 => readUnsigned x.arpeggioLength
  | 15 => readUnsigned x.pcmVolume
  | n =>
    if n < 64 then readSeq x.seq (n - 16)
    else if n < 80 then readSigned x.arp[Fin.ofNat 16 (n - 64)]
    else if n = 80 then readSigned x.finetune
    else if n = 81 then x.sampleLength
    else if n = 82 then x.loopStart
    else if n = 83 then x.loopLength
    else 0

/-- The register writes of SET_PARAM (45_host_commands.md R221); any other index leaves the registers
alone. -/
def writeParam (x : Instrument) (index : Byte) (value : BitVec 16) : Instrument :=
  match x.kind with
  | .wavetableSynth =>
    if index = 11 then { x with vibratoDelay := clampByte value.toNat 255 }
    else if index = 12 then { x with vibratoSpeed := clampByte value.toNat 255 }
    else if index = 13 then { x with vibratoDepth := clampByte value.toNat 255 }
    else x
  | .pcmSample =>
    if index = 15 then
      let level := clampByte value.toNat 64
      { x with pcmVolume := level, attackLevel := level, decayLevel := level, sustainLevel := level }
    else x

end Sys2Proof.Machine
end

