-- ==== Sys2Proof/Machine/Envelope.lean ====
section
/-! DEFINITION. The ADSR envelope generator (41_envelope.md). Each micro-operation acts on one voice. -/

namespace Sys2Proof.Machine

/-- A register's value as an exact rational. -/
def level (b : Byte) : ℚ := (b.toNat : ℚ)

/-- `ForceOff` (R132). `envelopeTicks` is left as it is. -/
def forceOff (v : Voice) : Voice :=
  { v with envelopeVolume := 0, envelopeState := .off, active := false }

/-- `EnvEnter(Release)` (R131). -/
def enterRelease (v : Voice) : Voice :=
  let v := { v with envelopeState := .release, envelopeTicks := 0 }
  if v.instrument.releaseLength = 0 then forceOff v else v

/-- `EnvEnter(Sustain)` (R131). -/
def enterSustain (v : Voice) : Voice :=
  { v with
    envelopeState := .sustain, envelopeTicks := 0, envelopeVolume := level v.instrument.sustainLevel }

/-- `EnvEnter(Decay)` (R131): a decay of length 0 is passed through. -/
def enterDecay (v : Voice) : Voice :=
  let v := { v with envelopeState := .decay, envelopeTicks := 0 }
  if v.instrument.decayLength = 0 then
    enterSustain { v with envelopeVolume := level v.instrument.decayLevel }
  else v

/-- `EnvEnter(Attack)` (R131): an attack of length 0 is passed through. -/
def enterAttack (v : Voice) : Voice :=
  let v := { v with envelopeState := .attack, envelopeTicks := 0 }
  if v.instrument.attackLength = 0 then
    enterDecay { v with envelopeVolume := level v.instrument.attackLevel }
  else v

/-- `AttackStep` (R135). -/
def attackStep (v : Voice) : Voice :=
  let x := v.instrument
  let v := { v with
    envelopeTicks := v.envelopeTicks + 1
    envelopeVolume := v.envelopeVolume + level x.attackLevel / level x.attackLength }
  if level x.attackLevel ≤ v.envelopeVolume ∨ x.attackLength.toNat ≤ v.envelopeTicks then
    enterDecay { v with envelopeVolume := level x.attackLevel }
  else v

/-- `DecayStep` (R136). -/
def decayStep (v : Voice) : Voice :=
  let x := v.instrument
  let v := { v with
    envelopeTicks := v.envelopeTicks + 1
    envelopeVolume :=
      v.envelopeVolume - (level x.attackLevel - level x.decayLevel) / level x.decayLength }
  if v.envelopeVolume ≤ level x.decayLevel ∨ x.decayLength.toNat ≤ v.envelopeTicks then
    enterSustain { v with envelopeVolume := level x.decayLevel }
  else v

/-- `SustainStep` (R137): a sustain length of 0 holds until NOTE_OFF. -/
def sustainStep (v : Voice) : Voice :=
  let x := v.instrument
  let v := { v with envelopeVolume := level x.sustainLevel }
  if x.sustainLength = 0 then v
  else
    let v := { v with envelopeTicks := v.envelopeTicks + 1 }
    if x.sustainLength.toNat ≤ v.envelopeTicks then enterRelease v else v

/-- `ReleaseStep` (R138). -/
def releaseStep (v : Voice) : Voice :=
  let x := v.instrument
  let v := { v with
    envelopeTicks := v.envelopeTicks + 1
    envelopeVolume := v.envelopeVolume - level x.sustainLevel / level x.releaseLength }
  if v.envelopeVolume ≤ 0 ∨ x.releaseLength.toNat ≤ v.envelopeTicks then forceOff v else v

/-- The step of the current envelope state (R133, R134). -/
def envStep (v : Voice) : Voice :=
  match v.envelopeState with
  | .off => v
  | .attack => attackStep v
  | .decay => decayStep v
  | .sustain => sustainStep v
  | .release => releaseStep v

/-- The clamp after a step (R139). -/
def envClamp (v : Voice) : Voice :=
  if v.envelopeState = .off then v
  else { v with envelopeVolume := clampQ v.envelopeVolume 0 maxVolume }

/-- `EnvTick` (R133). -/
def envTick (v : Voice) : Voice := envClamp (envStep v)

end Sys2Proof.Machine
end

