-- ==== Sys2Proof/Machine/Flags.lean ====
section
/-! DEFINITION. The tests on the block's one-bit flags (10_state.md R46; 60_exceptions.md R243). There are
no arithmetic condition codes. -/

namespace Sys2Proof.Machine

/-- `ValidHandle(v)` (R243): there is a Context, the index is below `NVOICES`, the slot is allocated, in
that order. -/
def validHandle (cfg : Config) (s : State) (v : Handle) : Bool :=
  s.valid && (decide (v.toNat < cfg.nvoices) && (s.voice v).allocated)

/-- `ValidHandle(v)` and `V.loaded`: what NOTE_ON, SET_PARAM and GET_PARAM test (R46). -/
def holdsInstrument (cfg : Config) (s : State) (v : Handle) : Bool :=
  validHandle cfg s v && (s.voice v).loaded

/-- The least slot that is not allocated, among those from `v` on, given the places left to look at. -/
def firstFreeFrom (s : State) : (places v : Nat) → Option Handle
  | 0, _ => none
  | n + 1, v =>
    if (s.voice (BitVec.ofNat 4 v)).allocated then firstFreeFrom s n (v + 1)
    else some (BitVec.ofNat 4 v)

/-- The slot CREATE_VOICE takes: the least index below `NVOICES` that is not allocated (R213). -/
def freeHandle? (cfg : Config) (s : State) : Option Handle :=
  match firstFreeFrom s 16 0 with
  | some v => if v.toNat < cfg.nvoices then some v else none
  | none => none

/-- NOTE_OFF acts in these envelope states (45_host_commands.md R217). -/
def EnvelopeState.releasable : EnvelopeState → Bool
  | .off => false
  | .attack => true
  | .decay => true
  | .sustain => true
  | .release => false

end Sys2Proof.Machine
end

