-- ==== Sys2Proof/Machine/Modulation.lean ====
section
/-! DEFINITION. Vibrato LFO, arpeggio, wave sequencer and frequency conversion (42_modulation.md). Each
micro-operation acts on one voice. -/

namespace Sys2Proof.Machine

/-- `VibTick` (R151). -/
def vibTick (cfg : Config) (v : Voice) : Voice :=
  if 0 < v.vibratoDelayRemaining then
    { v with vibratoDelayRemaining := v.vibratoDelayRemaining - 1 }
  else
    { v with
      vibratoPhase :=
        subtractWhile (v.vibratoPhase + (v.instrument.vibratoSpeed.toNat : ℚ) / cfg.vibSteps) 1 1 }

/-- `VibCents` (R152). -/
def vibCents (cfg : Config) (v : Voice) : ℚ :=
  cfg.sin v.vibratoPhase * v.instrument.vibratoDepth.toNat * cfg.vibDepthCents

/-- `ArpTick` (R154). -/
def arpTick (v : Voice) : Voice :=
  if 0 < v.instrument.arpeggioLength.toNat then
    { v with
      arpeggioIndex := Fin.ofNat 16 ((v.arpeggioIndex + 1 : Nat) % v.instrument.arpeggioLength.toNat) }
  else v

/-- `ArpOffset` (R155). -/
def arpOffset (v : Voice) : Int :=
  if 0 < v.instrument.arpeggioLength.toNat then sext8 v.instrument.arp[v.arpeggioIndex] else 0

/-- The sequencer's advance to its next step, with the re-wrap of the phase into the new wave (R157). -/
def seqAdvance (cfg : Config) (v : Voice) : Voice :=
  let wave := v.instrument.seq[v.sequencerStep].wave
  { v with
    sequencerTickCounter := 0
    activeWave := wave
    sequencerStep := Fin.ofNat 16 ((v.sequencerStep + 1 : Nat) % v.instrument.sequencerLength.toNat)
    oscillatorPhase :=
      subtractWhile v.oscillatorPhase (cfg.waveLen wave.toNat) (cfg.waveLen wave.toNat) }

/-- `SeqTick` (R157). -/
def seqTick (cfg : Config) (v : Voice) : Voice :=
  if 0 < v.instrument.sequencerLength.toNat ∧ 0 < v.instrument.sequencerSpeed.toNat then
    let v := { v with sequencerTickCounter := v.sequencerTickCounter + 1 }
    if v.instrument.sequencerSpeed.toNat ≤ v.sequencerTickCounter then seqAdvance cfg v else v
  else v

/-- The frequency `f` of Recompute (R159, R160, R161). -/
def frequency (cfg : Config) (v : Voice) : ℚ :=
  cfg.note2freq (v.baseNote.toNat + arpOffset v) *
    cfg.cents2ratio (vibCents cfg v + (sext8 v.instrument.finetune : ℚ) * cfg.finetuneCents)

/-- `Recompute` (R161), at a sample rate. -/
def recompute (cfg : Config) (rate : Nat) (v : Voice) : Voice :=
  { v with
    phaseIncrement :=
      match v.instrument.kind with
      | .wavetableSynth => frequency cfg v / rate * cfg.waveLen v.activeWave.toNat
      | .pcmSample => frequency cfg v / cfg.nativeFreq }

end Sys2Proof.Machine
end

