-- ==== Sys2Proof/Machine/HostCommands.lean ====
section
/-! DEFINITION. The context, voice, note and parameter commands (45_host_commands.md). -/

namespace Sys2Proof.Machine

/-! ## Context commands -/

/-- INIT (R211). -/
def execInit (rate : Operand) (s : State) : Host.Outcome State Fault Refusal :=
  if rate.toNat < tickHz then .next (s.respond errBadRate)
  else .next (({ s.freeAllSlots with sampleRate := rate, valid := true }).respond statusOk)

/-- DISPOSE (R212). -/
def execDispose (s : State) : Host.Outcome State Fault Refusal :=
  if s.valid then
    .next (({ s.freeAllSlots with valid := false, sampleRate := 0 }).respond statusOk)
  else .next (s.respond statusOk)

/-! ## Voice commands -/

/-- CREATE_VOICE under a configuration (R213): the response is the handle. -/
def createVoiceWith (cfg : Config) (s : State) : Host.Outcome State Fault Refusal :=
  if s.valid then
    match freeHandle? cfg s with
    | some v => .next ((s.resetSlot v true).respond (v.zeroExtend 32))
    | none => .next (s.respond poolExhausted)
  else .next (s.respond poolExhausted)

/-- CREATE_VOICE (R213). -/
def execCreateVoice (s : State) : Host.Outcome State Fault Refusal := createVoiceWith Config.hw s

/-- DESTROY_VOICE under a configuration (R214). -/
def destroyVoiceWith (cfg : Config) (v : Handle) (s : State) : Host.Outcome State Fault Refusal :=
  if validHandle cfg s v then .next ((s.resetSlot v false).respond statusOk)
  else .next (s.respond statusOk)

/-- DESTROY_VOICE (R214). -/
def execDestroyVoice (v : Handle) (s : State) : Host.Outcome State Fault Refusal :=
  destroyVoiceWith Config.hw v s

/-! ## Note commands -/

/-- The writes of NOTE_ON before the envelope starts (R216). -/
def noteStart (note velocity : SevenBit) (v : Voice) : Voice :=
  { v with
    baseNote := note, velocity := velocity,
    oscillatorPhase := 0,
    sequencerStep := 0, sequencerTickCounter := 0, activeWave := v.instrument.initialWaveIndex,
    arpeggioIndex := 0,
    vibratoPhase := 0, vibratoDelayRemaining := v.instrument.vibratoDelay.toNat,
    envelopeVolume := 0, active := true }

/-- A zero-length PCM sample ends before it starts (R216, R122). -/
def endIfEmpty (v : Voice) : Voice :=
  if v.instrument.kind = .pcmSample ∧ v.instrument.sampleLength = 0 then forceOff v else v

/-- The voice after NOTE_ON (R216). -/
def startNote (cfg : Config) (rate : Nat) (note velocity : SevenBit) (v : Voice) : Voice :=
  recompute cfg rate (endIfEmpty (enterAttack (noteStart note velocity v)))

/-- NOTE_ON under a configuration (R216). -/
def noteOnWith (cfg : Config) (v : Handle) (note velocity : SevenBit) (s : State) :
    Host.Outcome State Fault Refusal :=
  if holdsInstrument cfg s v then
    .next ((s.setVoice v (startNote cfg s.sampleRate.toNat note velocity (s.voice v))).respond statusOk)
  else .next (s.respond statusOk)

/-- NOTE_ON (R216). -/
def execNoteOn (v : Handle) (note velocity : SevenBit) (s : State) :
    Host.Outcome State Fault Refusal :=
  noteOnWith Config.hw v note velocity s

/-- NOTE_OFF under a configuration (R217). -/
def noteOffWith (cfg : Config) (v : Handle) (s : State) : Host.Outcome State Fault Refusal :=
  if validHandle cfg s v && (s.voice v).envelopeState.releasable then
    .next ((s.setVoice v (enterRelease (s.voice v))).respond statusOk)
  else .next (s.respond statusOk)

/-- NOTE_OFF (R217). -/
def execNoteOff (v : Handle) (s : State) : Host.Outcome State Fault Refusal :=
  noteOffWith Config.hw v s

/-! ## Parameter commands -/

/-- SET_PARAM under a configuration (R221). -/
def setParamWith (cfg : Config) (v : Handle) (index : Byte) (value : BitVec 16) (s : State) :
    Host.Outcome State Fault Refusal :=
  if holdsInstrument cfg s v then
    .next ((s.setVoice v { s.voice v with
      instrument := writeParam (s.voice v).instrument index value }).respond statusOk)
  else .next (s.respond statusOk)

/-- SET_PARAM (R221). -/
def execSetParam (v : Handle) (index : Byte) (value : BitVec 16) (s : State) :
    Host.Outcome State Fault Refusal :=
  setParamWith Config.hw v index value s

/-- GET_PARAM under a configuration (R222). -/
def getParamWith (cfg : Config) (v : Handle) (index : Byte) (s : State) :
    Host.Outcome State Fault Refusal :=
  if holdsInstrument cfg s v then .next (s.respond (readParam (s.voice v).instrument index))
  else .next (s.respond statusOk)

/-- GET_PARAM (R222). -/
def execGetParam (v : Handle) (index : Byte) (s : State) : Host.Outcome State Fault Refusal :=
  getParamWith Config.hw v index s

end Sys2Proof.Machine
end

