-- ==== Sys2Proof/Machine/Loader.lean ====
section
/-! DEFINITION. LOAD_INSTRUMENT, the instrument parser (40_load_instrument.md). -/

namespace Sys2Proof.Machine

/-- The clamped registers of `ParseSynth` (R113, R114). -/
def synthInstrument (cfg : Config) (payload : List Byte) : Instrument :=
  let byte := payloadByte payload
  let attackLevel := min (byte 5).toNat maxVolume
  { kind := .wavetableSynth
    initialWaveIndex := clampByte (byte 1).toNat (cfg.nwaves - 1)
    sequencerSpeed := byte 2
    sequencerLength := clampByte (byte 3).toNat tableMax
    attackLength := byte 4
    attackLevel := clampByte (byte 5).toNat maxVolume
    decayLength := byte 6
    decayLevel := clampByte (byte 7).toNat (min maxVolume attackLevel)
    sustainLength := byte 8
    sustainLevel := clampByte (byte 9).toNat maxVolume
    releaseLength := byte 10
    vibratoDelay := byte 11
    vibratoSpeed := byte 12
    vibratoDepth := byte 13
    arpeggioLength := clampByte (byte 14).toNat tableMax
    pcmVolume := 0
    finetune := 0
    sampleLength := 0
    loopStart := 0
    loopLength := 0
    seq := Vector.ofFn fun k =>
      ⟨clampByte (byte (16 + 3 * k)).toNat (cfg.nwaves - 1), byte (17 + 3 * k), byte (18 + 3 * k)⟩
    arp := Vector.ofFn fun k => byte (64 + k) }

/-- `TruncateLoop` (R117), on unbounded integers: loop start and loop length. -/
def truncateLoop (n loopStart loopLength : Nat) : Nat × Nat :=
  if n ≤ loopStart then (loopStart, 0)
  else if n < loopStart + loopLength then (loopStart, n - loopStart)
  else (loopStart, loopLength)

/-- The registers of `ParsePcm` (R116), the neutral synth registers included (R118). -/
def pcmInstrument (payload : List Byte) : Instrument :=
  let n := le32 payload 4
  let volume := clampByte (payloadByte payload 1).toNat maxVolume
  let loop := truncateLoop n.toNat (le32 payload 8).toNat (le32 payload 12).toNat
  { kind := .pcmSample
    initialWaveIndex := 0
    sequencerSpeed := 0
    sequencerLength := 0
    attackLength := 0
    attackLevel := volume
    decayLength := 0
    decayLevel := volume
    sustainLength := 0
    sustainLevel := volume
    releaseLength := 0
    vibratoDelay := 0
    vibratoSpeed := 0
    vibratoDepth := 0
    arpeggioLength := 0
    pcmVolume := volume
    finetune := payloadByte payload 2
    sampleLength := n
    loopStart := BitVec.ofNat 32 loop.1
    loopLength := BitVec.ofNat 32 loop.2
    seq := Vector.replicate 16 ⟨0, 0, 0⟩
    arp := Vector.replicate 16 0 }

/-- The sample bytes a PCM blob carries: the declared length, from offset 16 (R116, R90). -/
def pcmSamples (payload : List Byte) : List Byte :=
  (payload.drop pcmBlobMin).take (le32 payload 4).toNat

/-- What a blob parses to: instrument registers and sample RAM, or the code of the first check of R110
that fails (after the handle check). -/
def parse (cfg : Config) (payload : List Byte) : Except Word (Instrument × Memory) :=
  if payload.length < 1 then .error errShortHeader
  else
    match (payloadByte payload 0).toNat with
    | 0 =>
      if payload.length < synthBlobMin then .error errShortHeader
      else .ok (synthInstrument cfg payload, Memory.unspecified)
    | 1 =>
      if payload.length < pcmBlobMin then .error errShortHeader
      else if cfg.pcmMaxLen < (le32 payload 4).toNat then .error errAlloc
      else if payload.length - pcmBlobMin < (le32 payload 4).toNat then .error errShortData
      else .ok (pcmInstrument payload, Memory.load (pcmSamples payload))
    | _ => .error errBadKind

/-- The voice after a successful load (R110, R119): the new instrument, playback reset, the tick
accumulator and `allocated` kept. -/
def loadVoice (x : Instrument) (sram : Memory) (v : Voice) : Voice :=
  playReset { v with instrument := x, sram := sram, loaded := true }

/-- LOAD_INSTRUMENT under a configuration (R110). -/
def loadInstrumentWith (cfg : Config) (v : Handle) (payload : List Byte) (s : State) :
    Host.Outcome State Fault Refusal :=
  if validHandle cfg s v then
    match parse cfg payload with
    | .error code => .next (s.respond code)
    | .ok (x, sram) => .next ((s.setVoice v (loadVoice x sram (s.voice v))).respond statusOk)
  else .next (s.respond errBadHandle)

/-- LOAD_INSTRUMENT (R110). -/
def execLoadInstrument (v : Handle) (payload : List Byte) (s : State) :
    Host.Outcome State Fault Refusal :=
  loadInstrumentWith Config.hw v payload s

end Sys2Proof.Machine
end

