-- ==== Sys2Proof/Machine/Oscillator.lean ====
section
/-! DEFINITION. The oscillator, wavetable and PCM with loop control (43_oscillator.md). -/

namespace Sys2Proof.Machine

/-- Read `WAVE_DATA[w][i]` (20_memory.md R63). -/
def readWaveRom (cfg : Config) (w : Nat) (i : Int) : Except Fault Int :=
  if w < cfg.nwaves ∧ 0 ≤ i ∧ i < cfg.waveLen w then .ok (cfg.waveData w i.toNat)
  else .error .waveRomAddress

/-- Read `SRAM[i]` (20_memory.md R62). -/
def readSampleRam (cfg : Config) (sram : Memory) (i : Int) : Except Fault Int :=
  if 0 ≤ i ∧ i < cfg.pcmMaxLen then
    match Memory.read? sram i.toNat with
    | some b => .ok (sext8 b)
    | none => .error .unspecifiedSample
  else .error .sampleRamAddress

/-- `ProduceSample` (R171, R172): the amplitude at the integer part of the phase. -/
def produceSample (cfg : Config) (v : Voice) : Except Fault ℚ :=
  match v.instrument.kind with
  | .wavetableSynth =>
    match readWaveRom cfg v.activeWave.toNat ⌊v.oscillatorPhase⌋ with
    | .ok x => .ok ((x : ℚ) / cfg.waveNorm)
    | .error e => .error e
  | .pcmSample =>
    match readSampleRam cfg v.sram ⌊v.oscillatorPhase⌋ with
    | .ok x => .ok ((x : ℚ) / pcmNorm)
    | .error e => .error e

/-- The first index past the loop, `I.loopStart + I.loopLength`; the sum does not wrap (R176). -/
def loopEnd (x : Instrument) : Nat := x.loopStart.toNat + x.loopLength.toNat

/-- `LoopWrap` (R176). -/
def loopWrap (v : Voice) : Voice :=
  { v with
    oscillatorPhase :=
      subtractWhile v.oscillatorPhase (loopEnd v.instrument) v.instrument.loopLength.toNat }

/-- `EndCheck` (R177). -/
def endCheck (v : Voice) : Voice :=
  if (v.instrument.sampleLength.toNat : ℚ) ≤ v.oscillatorPhase then
    { forceOff v with oscillatorPhase := 0 }
  else v

/-- `AdvancePhase` (R173, R175). -/
def advancePhase (cfg : Config) (v : Voice) : Voice :=
  let v := { v with oscillatorPhase := v.oscillatorPhase + v.phaseIncrement }
  match v.instrument.kind with
  | .wavetableSynth =>
    { v with
      oscillatorPhase :=
        subtractWhile v.oscillatorPhase (cfg.waveLen v.activeWave.toNat)
          (cfg.waveLen v.activeWave.toNat) }
  | .pcmSample => if 1 < v.instrument.loopLength.toNat then loopWrap v else endCheck v

end Sys2Proof.Machine
end

