-- ==== Sys2Proof/Machine/Render.lean ====
section
/-! DEFINITION. RENDER and the dual-clock scheduler (44_render.md). -/

namespace Sys2Proof.Machine

/-- `Tick` (R193): the work of one 50 Hz tick; skipped after an envelope that reaches Off. -/
def tick (cfg : Config) (rate : Nat) (v : Voice) : Voice :=
  let v := envTick v
  if v.envelopeState = .off then v
  else recompute cfg rate (seqTick cfg (arpTick (vibTick cfg v)))

/-- Steps 1 and 2 of a sample (R192): add one sample period; at a full tick period subtract it and
tick, at most once. -/
def schedule (cfg : Config) (rate : Nat) (v : Voice) : Voice :=
  let v := { v with tickAccumulator := v.tickAccumulator + 1 / rate }
  if 1 / (tickHz : ℚ) ≤ v.tickAccumulator then
    tick cfg rate { v with tickAccumulator := v.tickAccumulator - 1 / tickHz }
  else v

/-- Silence (R194). -/
def Frame.silence : Frame := ⟨0, 0⟩

/-- The frame of an amplitude: scaled by envelope and velocity (R195), the same on both channels
(R196). -/
def scaledFrame (v : Voice) (a : ℚ) : Frame :=
  let s := a * (v.envelopeVolume / maxVolume) * ((v.velocity.toNat : ℚ) / velMax)
  ⟨s, s⟩

/-- One audio sample of an active voice (R190): the voice after it, and its frame, or none where the
envelope reached Off in this sample's tick. -/
def renderSample (cfg : Config) (rate : Nat) (v : Voice) : Except Fault (Voice × Option Frame) :=
  let v := schedule cfg rate v
  if v.active then
    match produceSample cfg v with
    | .ok a => .ok (advancePhase cfg v, some (scaledFrame v a))
    | .error e => .error e
  else .ok (v, none)

/-- The loop of RENDER (R190) over the samples left: the voice after it and their frames. -/
def renderLoop (cfg : Config) (rate : Nat) : Nat → Voice → Except Fault (Voice × List Frame)
  | 0, v => .ok (v, [])
  | n + 1, v =>
    if v.active then
      match renderSample cfg rate v with
      | .error e => .error e
      | .ok (w, none) => .ok (w, List.replicate (n + 1) Frame.silence)
      | .ok (w, some f) =>
        match renderLoop cfg rate n w with
        | .error e => .error e
        | .ok (u, fs) => .ok (u, f :: fs)
    else .ok (v, List.replicate (n + 1) Frame.silence)

/-- RENDER under a configuration (R190, R191). -/
def renderWith (cfg : Config) (v : Handle) (numSamples : Operand) (s : State) :
    Host.Outcome State Fault Refusal :=
  if validHandle cfg s v then
    match renderLoop cfg s.sampleRate.toNat numSamples.toNat (s.voice v) with
    | .error e => .fault e
    | .ok (w, frames) => .next ((s.setVoice v w).replyWith statusOk frames)
  else .next (s.respond statusOk)

/-- RENDER (R190). -/
def execRender (v : Handle) (numSamples : Operand) (s : State) : Host.Outcome State Fault Refusal :=
  renderWith Config.hw v numSamples s

end Sys2Proof.Machine
end

