-- ==== Sys2Proof/Machine/Dispatch.lean ====
section
/-! DEFINITION. One arm for each command of the opcode map (30_encoding.md R83). -/

namespace Sys2Proof.Machine

def exec (i : Instr) (s : State) : Host.Outcome State Fault Refusal :=
  match i with
  | .init rate => Sys2Proof.Machine.execInit rate s
  | .dispose => Sys2Proof.Machine.execDispose s
  | .createVoice => Sys2Proof.Machine.execCreateVoice s
  | .destroyVoice v => Sys2Proof.Machine.execDestroyVoice v s
  | .loadInstrument v payload => Sys2Proof.Machine.execLoadInstrument v payload s
  | .noteOn v note velocity => Sys2Proof.Machine.execNoteOn v note velocity s
  | .noteOff v => Sys2Proof.Machine.execNoteOff v s
  | .render v n => Sys2Proof.Machine.execRender v n s
  | .setParam v index value => Sys2Proof.Machine.execSetParam v index value s
  | .getParam v index => Sys2Proof.Machine.execGetParam v index s

end Sys2Proof.Machine
end

