-- ==== Sys2Proof/WellFormed.lean ====
section
/-! DEFINITION. Which commands can be encoded: the operands that do not fit their field by type are
checked here. Only the payload of LOAD_INSTRUMENT is such an operand (30_encoding.md R82, format L). -/

namespace Sys2Proof

/-- The payload's length fits the 24-bit operand `L` (R82; 20_memory.md R60: 0 ≤ L < 2^24). -/
def payloadFits (payload : List Byte) : Bool := decide (payload.length < 2 ^ 24)

/-- The command has an encoding (R80 to R82). -/
def Instr.wellFormed : Instr → Bool
  | .init _ => true
  | .dispose => true
  | .createVoice => true
  | .destroyVoice _ => true
  | .loadInstrument _ payload => payloadFits payload
  | .noteOn _ _ _ => true
  | .noteOff _ => true
  | .render _ _ => true
  | .setParam _ _ _ => true
  | .getParam _ _ => true

end Sys2Proof
end

