-- ==== Sys2Proof/Decode.lean ====
section
/-! DEFINITION. Decoding a host command, total on any word and payload, rejecting by name; and the
encoder, from the same tables (30_encoding.md R80 to R86). -/

namespace Sys2Proof

/-- Why a host command is no instruction. -/
inductive DecodeError where
  /-- Opcode 0x0 or 0xB..0xF (R85). -/
  | reservedOpcode
  /-- The payload is not exactly as long as the word says (R80). -/
  | payloadLength
deriving DecidableEq, Repr

/-- `opcode`, bits 31:28 (R81). -/
def opcodeField (w : Word) : BitVec 4 := w.extractLsb' 28 4

/-- `voice`, bits 27:24 (R81). -/
def voiceField (w : Word) : Handle := w.extractLsb' 24 4

/-- `operand`, bits 23:0 (R81). -/
def operandField (w : Word) : Operand := w.extractLsb' 0 24

/-- `note`, operand bits 14:8 (R82, format N). -/
def noteField (w : Word) : SevenBit := w.extractLsb' 8 7

/-- `velocity`, operand bits 6:0 (R82, format N). -/
def velocityField (w : Word) : SevenBit := w.extractLsb' 0 7

/-- `index`, operand bits 23:16 (R82, formats P and G). -/
def indexField (w : Word) : Byte := w.extractLsb' 16 8

/-- `value`, operand bits 15:0 (R82, format P). -/
def valueField (w : Word) : BitVec 16 := w.extractLsb' 0 16

/-- The number of payload bytes a word says follow it: L when the opcode is 5, else none (R80). -/
def declaredPayload (w : Word) : Nat :=
  if opcodeField w = 5 then (operandField w).toNat else 0

/-- The command a word and a payload of the right length stand for (R83). Reserved fields are not
looked at (R86). -/
def decodeWord (w : Word) (payload : List Byte) : Except DecodeError Instr :=
  match (opcodeField w).toNat with
  | 1 => .ok (.init (operandField w))
  | 2 => .ok .dispose
  | 3 => .ok .createVoice
  | 4 => .ok (.destroyVoice (voiceField w))
  | 5 => .ok (.loadInstrument (voiceField w) payload)
  | 6 => .ok (.noteOn (voiceField w) (noteField w) (velocityField w))
  | 7 => .ok (.noteOff (voiceField w))
  | 8 => .ok (.render (voiceField w) (operandField w))
  | 9 => .ok (.setParam (voiceField w) (indexField w) (valueField w))
  | 10 => .ok (.getParam (voiceField w) (indexField w))
  | _ => .error .reservedOpcode

/-- Decode one host command (R80, R83, R85). -/
def decode (c : HostCommand) : Except DecodeError Instr :=
  if c.payload.length = declaredPayload c.word then decodeWord c.word c.payload
  else .error .payloadLength

/-! ## The encoder -/

/-- A command word from its three fields (R81). -/
def wordOf (opcode : BitVec 4) (voice : Handle) (operand : Operand) : Word :=
  opcode ++ voice ++ operand

/-- Operand format N (R82). -/
def noteOperand (note velocity : SevenBit) : Operand := 0#9 ++ note ++ 0#1 ++ velocity

/-- Operand format P (R82); format G is the same with value 0. -/
def paramOperand (index : Byte) (value : BitVec 16) : Operand := index ++ value

/-- The host command of an instruction, reserved fields 0 (R82, R83, R86). -/
def encode : Instr → HostCommand
  | .init rate => ⟨wordOf 1 0 rate, []⟩
  | .dispose => ⟨wordOf 2 0 0, []⟩
  | .createVoice => ⟨wordOf 3 0 0, []⟩
  | .destroyVoice v => ⟨wordOf 4 v 0, []⟩
  | .loadInstrument v payload => ⟨wordOf 5 v (BitVec.ofNat 24 payload.length), payload⟩
  | .noteOn v note velocity => ⟨wordOf 6 v (noteOperand note velocity), []⟩
  | .noteOff v => ⟨wordOf 7 v 0, []⟩
  | .render v n => ⟨wordOf 8 v n, []⟩
  | .setParam v index value => ⟨wordOf 9 v (paramOperand index value), []⟩
  | .getParam v index => ⟨wordOf 10 v (paramOperand index 0), []⟩

/-! ## The opcode table's view of a command -/

/-- `n` payload bytes, the first in the eight lowest bits. -/
def bytesOfBits : (n bits : Nat) → List Byte
  | 0, _ => []
  | n + 1, bits => BitVec.ofNat 8 bits :: bytesOfBits n (bits >>> 8)

/-- The host command whose bits are `w`, `nbits` of them: the word is the low 32 bits, the payload
bytes follow, and every bit from `nbits` on is 0. -/
def commandOfBits (nbits w : Nat) : HostCommand :=
  let bits := w % 2 ^ nbits
  let word := BitVec.ofNat 32 bits
  ⟨word, bytesOfBits (declaredPayload word) (bits >>> 32)⟩

/-- The instruction the decoder reads from an instruction whose bits are `w`. -/
def decodeTableWord (nbits w : Nat) : Option Instr :=
  match decode (commandOfBits nbits w) with
  | .ok i => some i
  | .error _ => none

end Sys2Proof
end

