-- ==== Sys2Proof/Machine/Fetch.lean ====
section
/-! DEFINITION. Taking the next host command (20_memory.md R71) and answering one that decodes to no
instruction (30_encoding.md R85). -/

namespace Sys2Proof.Machine

/-- The next command, and the state with it taken; none while the host has issued none. -/
def fetch? (s : State) : Option (HostCommand × State) :=
  match s.commands with
  | [] => none
  | c :: rest => some (c, { s with commands := rest })

/-- A command that is no instruction: a reserved opcode changes nothing and responds
`ERR_BAD_COMMAND` (R85); a payload of the wrong length makes no command at all (R80). -/
def rejectCommand (e : DecodeError) (s : State) : Host.Outcome State Fault Refusal :=
  match e with
  | .reservedOpcode => .next (s.respond errBadCommand)
  | .payloadLength => .refused .payloadLength

/-- Put a command where the next step takes it from. -/
def State.issueFirst (s : State) (c : HostCommand) : State := { s with commands := c :: s.commands }

end Sys2Proof.Machine
end

