-- ==== Sys2Proof/Machine/Step.lean ====
section
/-! DEFINITION. One step: the block performs the next command to completion (20_memory.md R71), or waits,
unchanged, while there is none (70_reset_and_hazards.md R270). -/

namespace Sys2Proof.Machine

/-- One step of the machine. -/
def step (s : State) : Host.Outcome State Fault Refusal :=
  match fetch? s with
  | none => .next s
  | some (c, t) =>
    match decode c with
    | .ok i => exec i t
    | .error e => rejectCommand e t

/-- `s` with the instruction whose bits are `w` as its next command. -/
def State.withFetchWord (s : State) (nbits w : Nat) : State := s.issueFirst (commandOfBits nbits w)

end Sys2Proof.Machine
end

