-- ==== Sys2Proof/Safety.lean ====
section
/-! DEFINITION. What counts as a good state (10_state.md R23 to R41) and a safe step, in the terms the claims
use. -/

namespace Sys2Proof.Machine

/-- The instrument registers hold legal values: the ranges of R23, R24 and R25, the loop inside the
sample (R24), and the registers the other kind does not use at their neutral values (R24). -/
structure Instrument.Legal (cfg : Config) (x : Instrument) : Prop where
  initialWave : x.initialWaveIndex.toNat < cfg.nwaves
  seqWave : ∀ k : Fin 16, x.seq[k].wave.toNat < cfg.nwaves
  sequencerLength : x.sequencerLength.toNat ≤ tableMax
  arpeggioLength : x.arpeggioLength.toNat ≤ tableMax
  attackLevel : x.attackLevel.toNat ≤ maxVolume
  decayLevel : x.decayLevel.toNat ≤ x.attackLevel.toNat
  sustainLevel : x.sustainLevel.toNat ≤ maxVolume
  pcmVolume : x.pcmVolume.toNat ≤ maxVolume
  sampleLength : x.sampleLength.toNat ≤ cfg.pcmMaxLen
  loopInside : 0 < x.loopLength.toNat → loopEnd x ≤ x.sampleLength.toNat
  synthNeutral : x.kind = .wavetableSynth →
    x.pcmVolume = 0 ∧ x.finetune = 0 ∧ x.sampleLength = 0 ∧ x.loopStart = 0 ∧ x.loopLength = 0
  pcmNeutral : x.kind = .pcmSample →
    x.initialWaveIndex = 0 ∧ x.sequencerSpeed = 0 ∧ x.sequencerLength = 0 ∧ x.attackLength = 0 ∧
    x.attackLevel = x.pcmVolume ∧ x.decayLength = 0 ∧ x.decayLevel = x.pcmVolume ∧
    x.sustainLength = 0 ∧ x.sustainLevel = x.pcmVolume ∧ x.releaseLength = 0 ∧
    x.vibratoDelay = 0 ∧ x.vibratoSpeed = 0 ∧ x.vibratoDepth = 0 ∧ x.arpeggioLength = 0 ∧
    x.seq = Vector.replicate 16 ⟨0, 0, 0⟩ ∧ x.arp = Vector.replicate 16 0

/-- The sample RAM is in its canonical form, and a voice that holds an instrument has a value in exactly
the bytes below `I.sampleLength` (R27; 20_memory.md R62). -/
structure Voice.StorageGood (cfg : Config) (v : Voice) : Prop where
  canonical : Memory.wf v.sram = true
  legal : v.loaded = true → v.instrument.Legal cfg
  specified : v.loaded = true →
    ∀ a, (Memory.read? v.sram a).isSome = true ↔ a < v.instrument.sampleLength.toNat
  allocated : v.loaded = true → v.allocated = true

/-- The envelope registers (R28 to R31, R41): Off exactly when inactive, the volume in [0, 64] and 0 in
Off, and the elapsed ticks below the length of the phase that counts them (41_envelope.md R140). -/
structure Voice.EnvelopeGood (v : Voice) : Prop where
  off_iff : v.envelopeState = .off ↔ v.active = false
  active_loaded : v.active = true → v.loaded = true
  volume_nonneg : 0 ≤ v.envelopeVolume
  volume_le : v.envelopeVolume ≤ maxVolume
  off_volume : v.envelopeState = .off → v.envelopeVolume = 0
  ticks : v.envelopeTicks ≤ 255
  attack : v.envelopeState = .attack → v.envelopeTicks < v.instrument.attackLength.toNat
  decay : v.envelopeState = .decay → v.envelopeTicks < v.instrument.decayLength.toNat
  sustain : v.envelopeState = .sustain → 0 < v.instrument.sustainLength.toNat →
    v.envelopeTicks < v.instrument.sustainLength.toNat
  release : v.envelopeState = .release → v.envelopeTicks < v.instrument.releaseLength.toNat

/-- The modulation counters (R35 to R37, R41). -/
structure Voice.ModulationGood (v : Voice) : Prop where
  vibrato_nonneg : 0 ≤ v.vibratoPhase
  vibrato_lt : v.vibratoPhase < 1
  vibratoDelay : v.vibratoDelayRemaining ≤ 255
  arpeggio : 0 < v.instrument.arpeggioLength.toNat →
    v.arpeggioIndex.val < v.instrument.arpeggioLength.toNat
  sequencerStep : 0 < v.instrument.sequencerLength.toNat →
    v.sequencerStep.val < v.instrument.sequencerLength.toNat
  sequencerCounter : v.sequencerTickCounter ≤ 255
  sequencerPending : 0 < v.instrument.sequencerSpeed.toNat →
    v.sequencerTickCounter < v.instrument.sequencerSpeed.toNat

/-- The oscillator registers (R32, R33, R34, R38, R41; 43_oscillator.md R178). -/
structure Voice.OscillatorGood (cfg : Config) (v : Voice) : Prop where
  phase_nonneg : 0 ≤ v.oscillatorPhase
  increment_nonneg : 0 ≤ v.phaseIncrement
  clock_nonneg : 0 ≤ v.tickAccumulator
  clock_lt : v.tickAccumulator < 1 / (tickHz : ℚ)
  wave : v.activeWave.toNat < cfg.nwaves
  synth_phase : v.active = true → v.instrument.kind = .wavetableSynth →
    v.oscillatorPhase < (cfg.waveLen v.activeWave.toNat : ℚ)
  pcm_phase : v.active = true → v.instrument.kind = .pcmSample →
    v.oscillatorPhase < (v.instrument.sampleLength.toNat : ℚ)
  pcm_loop : v.active = true → v.instrument.kind = .pcmSample → 1 < v.instrument.loopLength.toNat →
    v.oscillatorPhase < (loopEnd v.instrument : ℚ)

/-- A good voice slot: the invariants of R41 and the ranges of R23 to R39. -/
structure Voice.Good (cfg : Config) (v : Voice) : Prop where
  storage : v.StorageGood cfg
  envelope : v.EnvelopeGood
  modulation : v.ModulationGood
  oscillator : v.OscillatorGood cfg

/-- A good state: every slot is good, a slot the block does not have is not allocated, and the sample
rate is at least 50 exactly while there is a Context (R20, R45). -/
structure State.Good (cfg : Config) (s : State) : Prop where
  voices : ∀ v, (s.voice v).Good cfg
  slots : ∀ v : Handle, cfg.nvoices ≤ v.toNat → (s.voice v).allocated = false
  rate : s.valid = true → tickHz ≤ s.sampleRate.toNat
  noContext : s.valid = false → s.sampleRate = 0 ∧ ∀ v, (s.voice v).allocated = false

/-- Every sample RAM is in its canonical form. -/
def State.MemoryCanonical (s : State) : Prop := ∀ v, Memory.wf (s.voice v).sram = true

/-- The playback state of a voice at its reset values (R43). -/
structure Voice.PlaybackReset (v : Voice) : Prop where
  active : v.active = false
  envelopeState : v.envelopeState = .off
  envelopeVolume : v.envelopeVolume = 0
  envelopeTicks : v.envelopeTicks = 0
  oscillatorPhase : v.oscillatorPhase = 0
  phaseIncrement : v.phaseIncrement = 0
  vibratoPhase : v.vibratoPhase = 0
  vibratoDelayRemaining : v.vibratoDelayRemaining = 0
  arpeggioIndex : v.arpeggioIndex = 0
  sequencerStep : v.sequencerStep = 0
  sequencerTickCounter : v.sequencerTickCounter = 0
  activeWave : v.activeWave = 0
  baseNote : v.baseNote = 0
  velocity : v.velocity = 0

/-- A voice slot with every value R44 and R45 specify: playback reset, no instrument, the tick
accumulator 0. Instrument storage is unspecified and so not named. -/
structure Voice.SlotReset (v : Voice) : Prop where
  playback : v.PlaybackReset
  loaded : v.loaded = false
  tickAccumulator : v.tickAccumulator = 0

/-- The voice a command is addressed to (10_state.md R59); INIT, DISPOSE and CREATE_VOICE address none. -/
def targetVoice : Instr → Option Handle
  | .init _ => none
  | .dispose => none
  | .createVoice => none
  | .destroyVoice v => some v
  | .loadInstrument v _ => some v
  | .noteOn v _ _ => some v
  | .noteOff v => some v
  | .render v _ => some v
  | .setParam v _ _ => some v
  | .getParam v _ => some v

/-- The Context registers and every voice slot but one are the same in both states, and no command was
taken. -/
structure KeptBut (v : Handle) (s t : State) : Prop where
  valid : t.valid = s.valid
  sampleRate : t.sampleRate = s.sampleRate
  others : ∀ u, u ≠ v → t.voice u = s.voice u
  commands : t.commands = s.commands

/-- A voice's registers other than its storage and allocation are those of playback; this says the
storage, the allocation and the tick accumulator are the same in both. -/
structure StorageKept (v w : Voice) : Prop where
  allocated : w.allocated = v.allocated
  loaded : w.loaded = v.loaded
  instrument : w.instrument = v.instrument
  memory : ∀ a, Memory.read? w.sram a = Memory.read? v.sram a

/-- A step is safe when it does not fault: no read outside a memory, none of an unspecified byte. -/
def SafeStep (s : State) : Prop := ∀ f, step s ≠ .fault f

/-- `s` with one more reply: what a command that changes nothing leaves. -/
def State.answered (s : State) (code : Int) : State :=
  { s with replies := s.replies ++ [⟨BitVec.ofInt 32 code, []⟩] }

/-- The bits of a command word that are not reserved, by opcode: the voice field of INIT, DISPOSE and
CREATE_VOICE is reserved (30_encoding.md R83), and so are the operand bits R82 says. -/
def reservedMask (opcode : Nat) : Word :=
  match opcode with
  | 1 => 0xF0FFFFFF
  | 2 => 0xF0000000
  | 3 => 0xF0000000
  | 4 => 0xFF000000
  | 6 => 0xFF007F7F
  | 7 => 0xFF000000
  | 10 => 0xFFFF0000
  | _ => 0xFFFFFFFF

/-- The command with its reserved bits 0 (30_encoding.md R86). -/
def clearReserved (c : HostCommand) : HostCommand :=
  { c with word := c.word &&& reservedMask (c.word.toNat / 2 ^ 28) }

/-- The voice with the transpose and effect fields of its sequencer table 0. -/
def withoutTransposeAndEffect (v : Voice) : Voice :=
  { v with
    instrument :=
      { v.instrument with seq := v.instrument.seq.map fun e => ⟨e.wave, 0, 0⟩ } }

/-- `a` is the amplitude of a voice at its phase: the entry of the active wave at the integer part of the
phase over `WAVE_NORM` (43_oscillator.md R171), or the signed sample RAM byte there over 128 (R172). -/
def IsAmplitude (cfg : Config) (v : Voice) (a : ℚ) : Prop :=
  (v.instrument.kind = .wavetableSynth →
    a = (cfg.waveData v.activeWave.toNat ⌊v.oscillatorPhase⌋.toNat : ℚ) / cfg.waveNorm) ∧
  (v.instrument.kind = .pcmSample →
    ∃ b : Byte, Memory.read? v.sram ⌊v.oscillatorPhase⌋.toNat = some b ∧ a = (b.toInt : ℚ) / 128)

/-- A voice whose note ends only by a command: it sounds, not in Release, its Sustain has no duration,
and its oscillator does not run out (41_envelope.md R130, R142). -/
structure Voice.Held (v : Voice) : Prop where
  active : v.active = true
  notReleased : v.envelopeState ≠ .release
  noDuration : v.instrument.sustainLength = 0
  endless : v.instrument.kind = .wavetableSynth ∨ 1 < v.instrument.loopLength.toNat

/-- The commands that can release or cut a note on voice v (41_envelope.md R130): NOTE_OFF,
LOAD_INSTRUMENT and DESTROY_VOICE addressed to it, DISPOSE, and INIT at a rate it accepts. -/
def endsNote (v : Handle) : Instr → Prop
  | .init rate => 50 ≤ rate.toNat
  | .dispose => True
  | .createVoice => False
  | .destroyVoice u => u = v
  | .loadInstrument u _ => u = v
  | .noteOn _ _ _ => False
  | .noteOff u => u = v
  | .render _ _ => False
  | .setParam _ _ _ => False
  | .getParam _ _ => False

/-- The commands that run the datapath of voice v or write its registers short of replacing the
instrument: NOTE_ON, NOTE_OFF, RENDER and SET_PARAM addressed to it. -/
def drivesDatapath (v : Handle) : Instr → Prop
  | .init _ => False
  | .dispose => False
  | .createVoice => False
  | .destroyVoice _ => False
  | .loadInstrument _ _ => False
  | .noteOn u _ _ => u = v
  | .noteOff u => u = v
  | .render u _ => u = v
  | .setParam u _ _ => u = v
  | .getParam _ _ => False

/-- The phase increment of a note that starts, before any tick: the pitch of the note, the first arpeggio
entry and the finetune, with no vibrato (42_modulation.md R155, R160, R161, at the values R216 sets). -/
def noteIncrement (cfg : Config) (rate : Nat) (note : SevenBit) (x : Instrument) : ℚ :=
  let offset := if 0 < x.arpeggioLength.toNat then x.arp[0].toInt else 0
  let f := cfg.note2freq (note.toNat + offset) * cfg.cents2ratio (x.finetune.toInt * cfg.finetuneCents)
  match x.kind with
  | .wavetableSynth => f / rate * cfg.waveLen x.initialWaveIndex.toNat
  | .pcmSample => f / cfg.nativeFreq

end Sys2Proof.Machine
end

