-- ==== Sys2Proof/Certificates/Slice0/Obligations.lean ====
section
/-! DEFINITION. The statements about the model, each a `def Obligations.<Name> : Prop`. `Config.hw` is the
machine's configuration, any one 00_scope.md R6 to R8 allow. -/

open Sys2Proof Sys2Proof.Machine

/-! ## Encoding -/

/-- R80 to R83: decoding the encoding of a well-formed command gives the command, with every operand. -/
def Obligations.DecodeOfEncode : Prop :=
  ∀ i : Instr, i.wellFormed = true → decode (encode i) = .ok i

/-- R80 to R83, R86: what the decoder accepts is well formed, and its encoding is the command that was
decoded with its reserved bits 0. -/
def Obligations.EncodeOfDecode : Prop :=
  ∀ (c : HostCommand) (i : Instr), decode c = .ok i →
    i.wellFormed = true ∧ encode i = clearReserved c

/-- R80 to R83: what every word decodes to, each field read off the word by arithmetic, when exactly the
declared payload follows it. That reserved bits are not looked at (R86, log 10), that a reserved opcode is
rejected by name (R85, log 9), and that a payload of another length is no command (log 11) is the model's
choice. -/
def Obligations.DecodeReadsFields : Prop :=
  ∀ (w : Word) (p : List Byte),
    (p.length = (if w.toNat / 2 ^ 28 = 5 then w.toNat % 2 ^ 24 else 0) →
      decode ⟨w, p⟩ =
        match w.toNat / 2 ^ 28 with
        | 1 => .ok (.init (BitVec.ofNat 24 (w.toNat % 2 ^ 24)))
        | 2 => .ok .dispose
        | 3 => .ok .createVoice
        | 4 => .ok (.destroyVoice (BitVec.ofNat 4 (w.toNat / 2 ^ 24 % 16)))
        | 5 => .ok (.loadInstrument (BitVec.ofNat 4 (w.toNat / 2 ^ 24 % 16)) p)
        | 6 => .ok (.noteOn (BitVec.ofNat 4 (w.toNat / 2 ^ 24 % 16))
            (BitVec.ofNat 7 (w.toNat / 2 ^ 8 % 128)) (BitVec.ofNat 7 (w.toNat % 128)))
        | 7 => .ok (.noteOff (BitVec.ofNat 4 (w.toNat / 2 ^ 24 % 16)))
        | 8 => .ok (.render (BitVec.ofNat 4 (w.toNat / 2 ^ 24 % 16))
            (BitVec.ofNat 24 (w.toNat % 2 ^ 24)))
        | 9 => .ok (.setParam (BitVec.ofNat 4 (w.toNat / 2 ^ 24 % 16))
            (BitVec.ofNat 8 (w.toNat / 2 ^ 16 % 256)) (BitVec.ofNat 16 (w.toNat % 2 ^ 16)))
        | 10 => .ok (.getParam (BitVec.ofNat 4 (w.toNat / 2 ^ 24 % 16))
            (BitVec.ofNat 8 (w.toNat / 2 ^ 16 % 256)))
        | _ => .error .reservedOpcode) ∧
    (p.length ≠ (if w.toNat / 2 ^ 28 = 5 then w.toNat % 2 ^ 24 else 0) →
      decode ⟨w, p⟩ = .error .payloadLength)

/-- R86: the block ignores reserved bits. Clearing them changes no step. -/
def Obligations.ReservedBitsIgnored : Prop :=
  ∀ (s : State) (c : HostCommand) (rest : List HostCommand),
    step { s with commands := c :: rest } = step { s with commands := clearReserved c :: rest }

/-- R85: a word with a reserved opcode changes no state but the command taken, gives no frames and
responds -6. -/
def Obligations.ReservedOpcodeResponds : Prop :=
  ∀ (s : State) (w : Word) (rest : List HostCommand),
    (w.toNat / 2 ^ 28 = 0 ∨ 11 ≤ w.toNat / 2 ^ 28) →
    step { s with commands := ⟨w, []⟩ :: rest } =
      .next { s with
        commands := rest, replies := s.replies ++ [⟨BitVec.ofInt 32 (-6), []⟩] }

/-- The worked encodings of R83 decode to the commands they are written for. -/
def Obligations.WorkedEncodingsDecode : Prop :=
  decode ⟨0x1000AC44, []⟩ = .ok (.init 44100) ∧
  decode ⟨0x30000000, []⟩ = .ok .createVoice ∧
  decode ⟨0x51000003, [1, 2, 3]⟩ = .ok (.loadInstrument 1 [1, 2, 3]) ∧
  decode ⟨0x6000457F, []⟩ = .ok (.noteOn 0 69 127) ∧
  decode ⟨0x73000000, []⟩ = .ok (.noteOff 3) ∧
  decode ⟨0x80000372, []⟩ = .ok (.render 0 882) ∧
  decode ⟨0x920D000C, []⟩ = .ok (.setParam 2 13 12) ∧
  decode ⟨0xA20D0000, []⟩ = .ok (.getParam 2 13)

/-! ## The step -/

/-- R71: when the next command decodes to a well-formed instruction, the step is that instruction's
meaning on the state with the command taken. -/
def Obligations.StepRunsDecodedInstruction : Prop :=
  ∀ (s : State) (c : HostCommand) (rest : List HostCommand) (i : Instr),
    s.commands = c :: rest → decode c = .ok i → i.wellFormed = true →
    step s = exec i { s with commands := rest }

/-- R71, R84: a step that takes a command hands the host exactly one reply, after all earlier ones, and
leaves the later commands. -/
def Obligations.EveryCommandRepliesOnce : Prop :=
  ∀ (s t : State) (c : HostCommand) (rest : List HostCommand),
    s.commands = c :: rest → step s = .next t →
    t.commands = rest ∧ ∃ r : Reply, t.replies = s.replies ++ [r]

/-! ## Reset and the invariant -/

/-- R45, R270: after power-on reset there is no Context and every slot is free, unloaded and at the
values of R45. -/
def Obligations.ResetState : Prop :=
  State.reset.valid = false ∧ State.reset.sampleRate = 0 ∧
  ∀ v, (State.reset.voice v).allocated = false ∧ (State.reset.voice v).SlotReset

/-- R41: the reset state is good. -/
def Obligations.ResetIsGood : Prop := State.reset.Good Config.hw

/-- R41: every step keeps a good state good: the ranges of R23 to R39, the range of the phase, Off
exactly when inactive, the specified bytes of the sample RAM. -/
def Obligations.StepKeepsGood : Prop :=
  ∀ s t : State, s.Good Config.hw → step s = .next t → t.Good Config.hw

/-- R62, R63, R179: from a good state no step reads outside a memory or reads an unspecified byte. -/
def Obligations.GoodStepIsSafe : Prop := ∀ s : State, s.Good Config.hw → SafeStep s

/-- Every step keeps every sample RAM in canonical form, from every state where it is. The form (cells at
strictly rising addresses) is the model's representation of the sample RAM, its choice of log 5. -/
def Obligations.StepKeepsMemoryCanonical : Prop :=
  ∀ s t : State, s.MemoryCanonical → step s = .next t → t.MemoryCanonical

/-! ## Errors and handles -/

/-- R243: `ValidHandle(v)`. -/
def Obligations.ValidHandleMeaning : Prop :=
  ∀ (s : State) (v : Handle), validHandle Config.hw s v = true ↔
    s.valid = true ∧ v.toNat < Config.hw.nvoices ∧ (s.voice v).allocated = true

/-- R244: what each command does with an invalid handle, and without a Context. -/
def Obligations.InvalidHandleTable : Prop :=
  (∀ (s : State) (v : Handle), validHandle Config.hw s v = false →
    exec (.destroyVoice v) s = .next (s.answered 0) ∧
    (∀ payload, exec (.loadInstrument v payload) s = .next (s.answered (-1))) ∧
    (∀ note velocity, exec (.noteOn v note velocity) s = .next (s.answered 0)) ∧
    exec (.noteOff v) s = .next (s.answered 0) ∧
    (∀ n, exec (.render v n) s = .next (s.answered 0)) ∧
    (∀ index value, exec (.setParam v index value) s = .next (s.answered 0)) ∧
    (∀ index, exec (.getParam v index) s = .next (s.answered 0))) ∧
  (∀ s : State, s.valid = false →
    (∀ v, validHandle Config.hw s v = false) ∧
    exec .dispose s = .next (s.answered 0) ∧
    exec .createVoice s = .next (s.answered (-1)) ∧
    ∀ rate : Operand, 50 ≤ rate.toNat → ∃ t, exec (.init rate) s = .next t ∧ t.valid = true)

/-- R241, R120: an error response changes no state at all. Only GET_PARAM can respond negatively
without an error, and it changes nothing either (R222). -/
def Obligations.ErrorsChangeNothing : Prop :=
  ∀ (s t : State) (c : HostCommand) (rest : List HostCommand) (r : Reply),
    s.commands = c :: rest → step s = .next t → t.replies = s.replies ++ [r] →
    r.response.toInt < 0 →
    t = { s with commands := rest, replies := s.replies ++ [r] } ∧ r.frames = []

/-! ## Isolation -/

/-- R59, R20: a command addressed to voice v writes no other voice and no Context register, and reads the
Context registers and voice v only: two states that agree on them give the same reply and the same
voice v. That the states must also agree on the counter of free values is the model's choice (log 6). -/
def Obligations.CommandConfinedToItsVoice : Prop :=
  ∀ (i : Instr) (v : Handle) (s t : State), targetVoice i = some v → exec i s = .next t →
    KeptBut v s t ∧
    ∀ s' : State, s'.valid = s.valid → s'.sampleRate = s.sampleRate → s'.voice v = s.voice v →
      s'.unspecifiedDraws = s.unspecifiedDraws →
      ∃ t' r, exec i s' = .next t' ∧ t'.voice v = t.voice v ∧
        t.replies = s.replies ++ [r] ∧ t'.replies = s'.replies ++ [r]

/-! ## Context and voice commands -/

/-- R211: INIT refuses every rate below 50 and changes nothing; at every other rate it creates the
Context, frees and resets every slot, and responds 0. -/
def Obligations.InitCreatesContext : Prop :=
  (∀ (s : State) (rate : Operand), rate.toNat < 50 →
    exec (.init rate) s = .next (s.answered (-7))) ∧
  ∀ (s : State) (rate : Operand), 50 ≤ rate.toNat →
    ∃ t, exec (.init rate) s = .next t ∧ t.valid = true ∧ t.sampleRate = rate ∧
      t.commands = s.commands ∧ t.replies = s.replies ++ [⟨0, []⟩] ∧
      ∀ v, (t.voice v).allocated = false ∧ (t.voice v).SlotReset ∧
        ∀ a, Memory.read? (t.voice v).sram a = none

/-- R212: DISPOSE of a Context leaves the power-on reset values; without one it changes nothing. -/
def Obligations.DisposeTearsDown : Prop :=
  (∀ s : State, s.valid = true →
    ∃ t, exec .dispose s = .next t ∧ t.valid = false ∧ t.sampleRate = 0 ∧
      t.commands = s.commands ∧ t.replies = s.replies ++ [⟨0, []⟩] ∧
      ∀ v, (t.voice v).allocated = false ∧ (t.voice v).SlotReset ∧
        ∀ a, Memory.read? (t.voice v).sram a = none) ∧
  (∀ s : State, s.valid = false → exec .dispose s = .next (s.answered 0))

/-- R213: CREATE_VOICE takes the least free slot of the block, resets it, allocates it and responds its
index. -/
def Obligations.CreateVoiceTakesLeastFree : Prop :=
  ∀ (s : State) (v : Handle), s.valid = true → v.toNat < Config.hw.nvoices →
    (s.voice v).allocated = false →
    (∀ u : Handle, u.toNat < v.toNat → (s.voice u).allocated = true) →
    ∃ t, exec .createVoice s = .next t ∧ KeptBut v s t ∧
      (t.voice v).allocated = true ∧ (t.voice v).SlotReset ∧
      (∀ a, Memory.read? (t.voice v).sram a = none) ∧
      t.replies = s.replies ++ [⟨BitVec.ofNat 32 v.toNat, []⟩]

/-- R213: CREATE_VOICE responds -1 and changes nothing when there is no Context or no free slot. -/
def Obligations.CreateVoiceExhausted : Prop :=
  ∀ s : State,
    (s.valid = false ∨
      ∀ v : Handle, v.toNat < Config.hw.nvoices → (s.voice v).allocated = true) →
    exec .createVoice s = .next (s.answered (-1))

/-- R214: DESTROY_VOICE of a valid handle resets the slot, frees it and responds 0. -/
def Obligations.DestroyVoiceFreesSlot : Prop :=
  ∀ (s : State) (v : Handle), validHandle Config.hw s v = true →
    ∃ t, exec (.destroyVoice v) s = .next t ∧ KeptBut v s t ∧
      (t.voice v).allocated = false ∧ (t.voice v).SlotReset ∧
      (∀ a, Memory.read? (t.voice v).sram a = none) ∧
      t.replies = s.replies ++ [⟨0, []⟩]

/-! ## LOAD_INSTRUMENT -/

/-- R110, R111, R112, R115, R245: the checks in their order; the first that fails gives the response,
and nothing changes. -/
def Obligations.LoadChecksInOrder : Prop :=
  ∀ (s : State) (v : Handle) (p : List Byte), validHandle Config.hw s v = true →
    (p = [] → exec (.loadInstrument v p) s = .next (s.answered (-2))) ∧
    (p ≠ [] → 1 < (payloadByte p 0).toNat →
      exec (.loadInstrument v p) s = .next (s.answered (-5))) ∧
    (p ≠ [] → payloadByte p 0 = 0 → p.length < 80 →
      exec (.loadInstrument v p) s = .next (s.answered (-2))) ∧
    (p ≠ [] → payloadByte p 0 = 1 → p.length < 16 →
      exec (.loadInstrument v p) s = .next (s.answered (-2))) ∧
    (payloadByte p 0 = 1 → 16 ≤ p.length → Config.hw.pcmMaxLen < (le32 p 4).toNat →
      exec (.loadInstrument v p) s = .next (s.answered (-4))) ∧
    (payloadByte p 0 = 1 → 16 ≤ p.length → p.length < 16 + (le32 p 4).toNat →
      exec (.loadInstrument v p) s =
        .next (s.answered (if Config.hw.pcmMaxLen < (le32 p 4).toNat then -4 else -3)))

/-- R113, R114, R119: a WavetableSynth blob of at least 80 bytes loads: every register, both tables, the
sample RAM unspecified, the playback state reset, the tick accumulator and the allocation kept. -/
def Obligations.LoadSynth : Prop :=
  ∀ (s : State) (v : Handle) (p : List Byte), validHandle Config.hw s v = true →
    80 ≤ p.length → payloadByte p 0 = 0 →
    ∃ t w, exec (.loadInstrument v p) s = .next t ∧ t.voice v = w ∧ KeptBut v s t ∧
      t.replies = s.replies ++ [⟨0, []⟩] ∧
      w.loaded = true ∧ w.allocated = true ∧ w.PlaybackReset ∧
      w.tickAccumulator = (s.voice v).tickAccumulator ∧
      (∀ a, Memory.read? w.sram a = none) ∧
      w.instrument.kind = .wavetableSynth ∧
      w.instrument.initialWaveIndex.toNat =
        min (payloadByte p 1).toNat (Config.hw.nwaves - 1) ∧
      w.instrument.sequencerSpeed = payloadByte p 2 ∧
      w.instrument.sequencerLength.toNat = min (payloadByte p 3).toNat 16 ∧
      w.instrument.attackLength = payloadByte p 4 ∧
      w.instrument.attackLevel.toNat = min (payloadByte p 5).toNat 64 ∧
      w.instrument.decayLength = payloadByte p 6 ∧
      w.instrument.decayLevel.toNat =
        min (min (payloadByte p 7).toNat 64) w.instrument.attackLevel.toNat ∧
      w.instrument.sustainLength = payloadByte p 8 ∧
      w.instrument.sustainLevel.toNat = min (payloadByte p 9).toNat 64 ∧
      w.instrument.releaseLength = payloadByte p 10 ∧
      w.instrument.vibratoDelay = payloadByte p 11 ∧
      w.instrument.vibratoSpeed = payloadByte p 12 ∧
      w.instrument.vibratoDepth = payloadByte p 13 ∧
      w.instrument.arpeggioLength.toNat = min (payloadByte p 14).toNat 16 ∧
      (∀ k : Fin 16,
        w.instrument.seq[k].wave.toNat =
          min (payloadByte p (16 + 3 * k)).toNat (Config.hw.nwaves - 1) ∧
        w.instrument.seq[k].transpose = payloadByte p (17 + 3 * k) ∧
        w.instrument.seq[k].effect = payloadByte p (18 + 3 * k) ∧
        w.instrument.arp[k] = payloadByte p (64 + k)) ∧
      w.instrument.pcmVolume = 0 ∧ w.instrument.finetune = 0 ∧ w.instrument.sampleLength = 0 ∧
      w.instrument.loopStart = 0 ∧ w.instrument.loopLength = 0

/-- R116, R118, R119: a PcmSample blob that passes the checks loads: volume, finetune, length, the
truncated loop, exactly the declared bytes of the sample RAM, the neutral synth registers. -/
def Obligations.LoadPcm : Prop :=
  ∀ (s : State) (v : Handle) (p : List Byte), validHandle Config.hw s v = true →
    payloadByte p 0 = 1 → 16 + (le32 p 4).toNat ≤ p.length →
    (le32 p 4).toNat ≤ Config.hw.pcmMaxLen →
    ∃ t w, exec (.loadInstrument v p) s = .next t ∧ t.voice v = w ∧ KeptBut v s t ∧
      t.replies = s.replies ++ [⟨0, []⟩] ∧
      w.loaded = true ∧ w.allocated = true ∧ w.PlaybackReset ∧
      w.tickAccumulator = (s.voice v).tickAccumulator ∧
      (∀ a, Memory.read? w.sram a =
        if a < (le32 p 4).toNat then some (payloadByte p (16 + a)) else none) ∧
      w.instrument.kind = .pcmSample ∧
      w.instrument.pcmVolume.toNat = min (payloadByte p 1).toNat 64 ∧
      w.instrument.finetune = payloadByte p 2 ∧
      w.instrument.sampleLength = le32 p 4 ∧
      w.instrument.loopStart = le32 p 8 ∧
      w.instrument.loopLength.toNat =
        (if (le32 p 4).toNat ≤ (le32 p 8).toNat then 0
         else min (le32 p 12).toNat ((le32 p 4).toNat - (le32 p 8).toNat)) ∧
      w.instrument.initialWaveIndex = 0 ∧ w.instrument.sequencerSpeed = 0 ∧
      w.instrument.sequencerLength = 0 ∧ w.instrument.attackLength = 0 ∧
      w.instrument.attackLevel = w.instrument.pcmVolume ∧ w.instrument.decayLength = 0 ∧
      w.instrument.decayLevel = w.instrument.pcmVolume ∧ w.instrument.sustainLength = 0 ∧
      w.instrument.sustainLevel = w.instrument.pcmVolume ∧ w.instrument.releaseLength = 0 ∧
      w.instrument.vibratoDelay = 0 ∧ w.instrument.vibratoSpeed = 0 ∧
      w.instrument.vibratoDepth = 0 ∧ w.instrument.arpeggioLength = 0 ∧
      (∀ k : Fin 16, w.instrument.seq[k] = ⟨0, 0, 0⟩ ∧ w.instrument.arp[k] = 0)

/-- R117: loop truncation keeps the start, never lengthens the loop, and gives the longest loop that
fits: 0 where the start is outside the sample, else the given length or what is left. -/
def Obligations.LoopTruncatedToFit : Prop :=
  ∀ n start length : Nat,
    (truncateLoop n start length).1 = start ∧
    (n ≤ start → (truncateLoop n start length).2 = 0) ∧
    (start < n → (truncateLoop n start length).2 = min length (n - start))

/-- R121: for a synth blob of legal fields, GET_PARAM returns after the load what was in the blob:
unsigned fields zero-extended, transpose and arpeggio entries sign-extended. -/
def Obligations.SynthBlobRoundTrip : Prop :=
  ∀ (s : State) (v : Handle) (p : List Byte) (index : Byte), validHandle Config.hw s v = true →
    80 ≤ p.length → payloadByte p 0 = 0 →
    (payloadByte p 1).toNat < Config.hw.nwaves → (payloadByte p 3).toNat ≤ 16 →
    (payloadByte p 5).toNat ≤ 64 → (payloadByte p 7).toNat ≤ (payloadByte p 5).toNat →
    (payloadByte p 9).toNat ≤ 64 → (payloadByte p 14).toNat ≤ 16 →
    (∀ k < 16, (payloadByte p (16 + 3 * k)).toNat < Config.hw.nwaves) →
    index.toNat < 80 → index.toNat ≠ 15 →
    ∃ t u, exec (.loadInstrument v p) s = .next t ∧ exec (.getParam v index) t = .next u ∧
      u.replies = t.replies ++
        [⟨if 64 ≤ index.toNat ∨ (16 ≤ index.toNat ∧ index.toNat % 3 = 2)
          then (payloadByte p index.toNat).signExtend 32
          else (payloadByte p index.toNat).zeroExtend 32, []⟩]

/-- R121: for a PCM blob of legal fields whose loop lies in the sample, GET_PARAM returns after the load
the kind, volume, finetune, length and loop that were in the blob. -/
def Obligations.PcmBlobRoundTrip : Prop :=
  ∀ (s : State) (v : Handle) (p : List Byte), validHandle Config.hw s v = true →
    payloadByte p 0 = 1 → 16 + (le32 p 4).toNat ≤ p.length →
    (le32 p 4).toNat ≤ Config.hw.pcmMaxLen → (payloadByte p 1).toNat ≤ 64 →
    (le32 p 8).toNat + (le32 p 12).toNat ≤ (le32 p 4).toNat →
    ∃ t, exec (.loadInstrument v p) s = .next t ∧
      exec (.getParam v 0) t = .next (t.answered 1) ∧
      exec (.getParam v 15) t = .next (t.answered (payloadByte p 1).toNat) ∧
      exec (.getParam v 80) t = .next (t.answered (payloadByte p 2).toInt) ∧
      exec (.getParam v 81) t = .next (t.answered (le32 p 4).toNat) ∧
      exec (.getParam v 82) t = .next (t.answered (le32 p 8).toNat) ∧
      exec (.getParam v 83) t = .next (t.answered (le32 p 12).toNat)

/-! ## Notes -/

/-- R216: NOTE_ON on a loaded voice whose attack has a length starts it in Attack at volume 0, with
every counter reset and the increment of its pitch. -/
def Obligations.NoteOnStartsAttack : Prop :=
  ∀ (s : State) (v : Handle) (note velocity : SevenBit), validHandle Config.hw s v = true →
    (s.voice v).loaded = true → (s.voice v).instrument.attackLength ≠ 0 →
    ((s.voice v).instrument.kind = .wavetableSynth ∨ (s.voice v).instrument.sampleLength ≠ 0) →
    ∃ t w, exec (.noteOn v note velocity) s = .next t ∧ t.voice v = w ∧ KeptBut v s t ∧
      t.replies = s.replies ++ [⟨0, []⟩] ∧ StorageKept (s.voice v) w ∧
      w.tickAccumulator = (s.voice v).tickAccumulator ∧
      w.baseNote = note ∧ w.velocity = velocity ∧ w.oscillatorPhase = 0 ∧
      w.sequencerStep = 0 ∧ w.sequencerTickCounter = 0 ∧
      w.activeWave = (s.voice v).instrument.initialWaveIndex ∧
      w.arpeggioIndex = 0 ∧ w.vibratoPhase = 0 ∧
      w.vibratoDelayRemaining = (s.voice v).instrument.vibratoDelay.toNat ∧
      w.active = true ∧ w.envelopeState = .attack ∧ w.envelopeVolume = 0 ∧ w.envelopeTicks = 0 ∧
      w.phaseIncrement = noteIncrement Config.hw s.sampleRate.toNat note (s.voice v).instrument

/-- R216, R131: NOTE_ON passes an attack of length 0 through: Decay at the attack level, or Sustain at
the sustain level where the decay has length 0 too; with the counters and the pitch of a new note. -/
def Obligations.NoteOnPassesZeroAttack : Prop :=
  ∀ (s : State) (v : Handle) (note velocity : SevenBit), validHandle Config.hw s v = true →
    (s.voice v).loaded = true → (s.voice v).instrument.attackLength = 0 →
    ((s.voice v).instrument.kind = .wavetableSynth ∨ (s.voice v).instrument.sampleLength ≠ 0) →
    ∃ t w, exec (.noteOn v note velocity) s = .next t ∧ t.voice v = w ∧ KeptBut v s t ∧
      t.replies = s.replies ++ [⟨0, []⟩] ∧ StorageKept (s.voice v) w ∧
      w.tickAccumulator = (s.voice v).tickAccumulator ∧
      w.baseNote = note ∧ w.velocity = velocity ∧ w.oscillatorPhase = 0 ∧
      w.sequencerStep = 0 ∧ w.sequencerTickCounter = 0 ∧
      w.activeWave = (s.voice v).instrument.initialWaveIndex ∧
      w.arpeggioIndex = 0 ∧ w.vibratoPhase = 0 ∧
      w.vibratoDelayRemaining = (s.voice v).instrument.vibratoDelay.toNat ∧
      w.active = true ∧ w.envelopeTicks = 0 ∧
      ((s.voice v).instrument.decayLength ≠ 0 →
        w.envelopeState = .decay ∧
        w.envelopeVolume = ((s.voice v).instrument.attackLevel.toNat : ℚ)) ∧
      ((s.voice v).instrument.decayLength = 0 →
        w.envelopeState = .sustain ∧
        w.envelopeVolume = ((s.voice v).instrument.sustainLevel.toNat : ℚ)) ∧
      w.phaseIncrement = noteIncrement Config.hw s.sampleRate.toNat note (s.voice v).instrument

/-- R122, R216: a zero-length PCM sample can never sound: NOTE_ON leaves it Off and inactive, with the
note, the counters, the phase and the increment of a note that starts. -/
def Obligations.NoteOnEmptySampleStaysOff : Prop :=
  ∀ (s : State) (v : Handle) (note velocity : SevenBit), validHandle Config.hw s v = true →
    (s.voice v).loaded = true → (s.voice v).instrument.kind = .pcmSample →
    (s.voice v).instrument.sampleLength = 0 →
    ∃ t w, exec (.noteOn v note velocity) s = .next t ∧ t.voice v = w ∧ KeptBut v s t ∧
      t.replies = s.replies ++ [⟨0, []⟩] ∧ StorageKept (s.voice v) w ∧
      w.tickAccumulator = (s.voice v).tickAccumulator ∧
      w.baseNote = note ∧ w.velocity = velocity ∧ w.oscillatorPhase = 0 ∧
      w.sequencerStep = 0 ∧ w.sequencerTickCounter = 0 ∧
      w.activeWave = (s.voice v).instrument.initialWaveIndex ∧
      w.arpeggioIndex = 0 ∧ w.vibratoPhase = 0 ∧
      w.vibratoDelayRemaining = (s.voice v).instrument.vibratoDelay.toNat ∧
      w.active = false ∧ w.envelopeState = .off ∧ w.envelopeVolume = 0 ∧ w.envelopeTicks = 0 ∧
      w.phaseIncrement = noteIncrement Config.hw s.sampleRate.toNat note (s.voice v).instrument

/-- R217: NOTE_OFF in Attack, Decay or Sustain enters Release with the volume kept, or Off where the
release has length 0; in Off and in Release it changes nothing. -/
def Obligations.NoteOffReleases : Prop :=
  ∀ (s : State) (v : Handle), validHandle Config.hw s v = true →
    (((s.voice v).envelopeState = .off ∨ (s.voice v).envelopeState = .release) →
      exec (.noteOff v) s = .next (s.answered 0)) ∧
    ((s.voice v).envelopeState ≠ .off → (s.voice v).envelopeState ≠ .release →
      ∃ t, exec (.noteOff v) s = .next t ∧ KeptBut v s t ∧
        t.replies = s.replies ++ [⟨0, []⟩] ∧
        t.voice v =
          if (s.voice v).instrument.releaseLength = 0 then
            { s.voice v with
              envelopeTicks := 0, envelopeState := .off, envelopeVolume := 0, active := false }
          else { s.voice v with envelopeTicks := 0, envelopeState := .release })

/-! ## Parameters -/

/-- R221: SET_PARAM on a loaded voice writes the vibrato register of its index on a synth, the volume
registers on a PCM voice, clamped, and nothing else. -/
def Obligations.SetParamWrites : Prop :=
  ∀ (s : State) (v : Handle) (index : Byte) (value : BitVec 16),
    validHandle Config.hw s v = true → (s.voice v).loaded = true →
    ∃ t x, exec (.setParam v index value) s = .next t ∧ KeptBut v s t ∧
      t.replies = s.replies ++ [⟨0, []⟩] ∧
      t.voice v = { s.voice v with instrument := x } ∧
      ((s.voice v).instrument.kind = .wavetableSynth →
        x = { (s.voice v).instrument with
          vibratoDelay := if index = 11 then BitVec.ofNat 8 (min value.toNat 255)
            else (s.voice v).instrument.vibratoDelay
          vibratoSpeed := if index = 12 then BitVec.ofNat 8 (min value.toNat 255)
            else (s.voice v).instrument.vibratoSpeed
          vibratoDepth := if index = 13 then BitVec.ofNat 8 (min value.toNat 255)
            else (s.voice v).instrument.vibratoDepth }) ∧
      ((s.voice v).instrument.kind = .pcmSample → index = 15 →
        x = { (s.voice v).instrument with
          pcmVolume := BitVec.ofNat 8 (min value.toNat 64)
          attackLevel := BitVec.ofNat 8 (min value.toNat 64)
          decayLevel := BitVec.ofNat 8 (min value.toNat 64)
          sustainLevel := BitVec.ofNat 8 (min value.toNat 64) }) ∧
      ((s.voice v).instrument.kind = .pcmSample → index ≠ 15 → x = (s.voice v).instrument)

/-- R221: SET_PARAM and NOTE_ON on a voice that holds no instrument are ignored; GET_PARAM of it
responds 0 (R216, R222, R273). -/
def Obligations.UnloadedVoiceIgnores : Prop :=
  ∀ (s : State) (v : Handle), (s.voice v).loaded = false →
    (∀ index value, exec (.setParam v index value) s = .next (s.answered 0)) ∧
    (∀ note velocity, exec (.noteOn v note velocity) s = .next (s.answered 0)) ∧
    (∀ index, exec (.getParam v index) s = .next (s.answered 0))

/-- R222, R95: GET_PARAM of a loaded voice responds the register of its index and changes nothing. -/
def Obligations.GetParamReads : Prop :=
  ∀ (s : State) (v : Handle) (x : Instrument), validHandle Config.hw s v = true →
    (s.voice v).loaded = true → (s.voice v).instrument = x →
    exec (.getParam v 0) s = .next (s.answered (if x.kind = .wavetableSynth then 0 else 1)) ∧
    exec (.getParam v 1) s = .next (s.answered x.initialWaveIndex.toNat) ∧
    exec (.getParam v 2) s = .next (s.answered x.sequencerSpeed.toNat) ∧
    exec (.getParam v 3) s = .next (s.answered x.sequencerLength.toNat) ∧
    exec (.getParam v 4) s = .next (s.answered x.attackLength.toNat) ∧
    exec (.getParam v 5) s = .next (s.answered x.attackLevel.toNat) ∧
    exec (.getParam v 6) s = .next (s.answered x.decayLength.toNat) ∧
    exec (.getParam v 7) s = .next (s.answered x.decayLevel.toNat) ∧
    exec (.getParam v 8) s = .next (s.answered x.sustainLength.toNat) ∧
    exec (.getParam v 9) s = .next (s.answered x.sustainLevel.toNat) ∧
    exec (.getParam v 10) s = .next (s.answered x.releaseLength.toNat) ∧
    exec (.getParam v 11) s = .next (s.answered x.vibratoDelay.toNat) ∧
    exec (.getParam v 12) s = .next (s.answered x.vibratoSpeed.toNat) ∧
    exec (.getParam v 13) s = .next (s.answered x.vibratoDepth.toNat) ∧
    exec (.getParam v 14) s = .next (s.answered x.arpeggioLength.toNat) ∧
    exec (.getParam v 15) s = .next (s.answered x.pcmVolume.toNat) ∧
    (∀ k : Fin 16,
      exec (.getParam v (BitVec.ofNat 8 (16 + 3 * k))) s =
        .next (s.answered x.seq[k].wave.toNat) ∧
      exec (.getParam v (BitVec.ofNat 8 (17 + 3 * k))) s =
        .next (s.answered x.seq[k].transpose.toInt) ∧
      exec (.getParam v (BitVec.ofNat 8 (18 + 3 * k))) s =
        .next (s.answered x.seq[k].effect.toNat) ∧
      exec (.getParam v (BitVec.ofNat 8 (64 + k))) s = .next (s.answered x.arp[k].toInt)) ∧
    exec (.getParam v 80) s = .next (s.answered x.finetune.toInt) ∧
    exec (.getParam v 81) s = .next (s.answered x.sampleLength.toNat) ∧
    exec (.getParam v 82) s = .next (s.answered x.loopStart.toNat) ∧
    exec (.getParam v 83) s = .next (s.answered x.loopLength.toNat) ∧
    (∀ index : Byte, 84 ≤ index.toNat → exec (.getParam v index) s = .next (s.answered 0))

/-! ## RENDER -/

/-- R190, R194: in a good state RENDER of a valid handle completes with exactly N frames and response 0;
it writes no storage, no other voice, and neither note nor velocity. -/
def Obligations.RenderCompletes : Prop :=
  ∀ (s : State) (v : Handle) (n : Operand), s.Good Config.hw → validHandle Config.hw s v = true →
    ∃ t frames, exec (.render v n) s = .next t ∧ KeptBut v s t ∧
      t.replies = s.replies ++ [⟨0, frames⟩] ∧ frames.length = n.toNat ∧
      StorageKept (s.voice v) (t.voice v) ∧
      (t.voice v).baseNote = (s.voice v).baseNote ∧ (t.voice v).velocity = (s.voice v).velocity

/-- R199: RENDER of no samples gives no frames and changes nothing. -/
def Obligations.RenderOfNoSamples : Prop :=
  ∀ (s : State) (v : Handle), exec (.render v 0) s = .next (s.answered 0)

/-- R194, R273: RENDER of a valid voice that is not sounding gives N frames of silence and changes
nothing, not even the tick accumulator. -/
def Obligations.RenderInactiveIsSilent : Prop :=
  ∀ (s : State) (v : Handle) (n : Operand), validHandle Config.hw s v = true →
    (s.voice v).active = false →
    exec (.render v n) s =
      .next { s with replies := s.replies ++ [⟨0, List.replicate n.toNat ⟨0, 0⟩⟩] }

/-- R171, R172, R192, R195, R196: one sample of an active voice in which no tick falls: the frame is the
amplitude at the phase scaled by envelope and velocity, on both channels; the accumulator and the phase
advance. -/
def Obligations.RenderOneSampleWithoutTick : Prop :=
  ∀ (s : State) (v : Handle), s.Good Config.hw → validHandle Config.hw s v = true →
    (s.voice v).active = true →
    (s.voice v).tickAccumulator + 1 / (s.sampleRate.toNat : ℚ) < 1 / 50 →
    ∃ t a x, exec (.render v 1) s = .next t ∧ KeptBut v s t ∧
      IsAmplitude Config.hw (s.voice v) a ∧
      x = a * ((s.voice v).envelopeVolume / 64) * (((s.voice v).velocity.toNat : ℚ) / 127) ∧
      t.replies = s.replies ++ [⟨0, [⟨x, x⟩]⟩] ∧
      t.voice v = advancePhase Config.hw
        { s.voice v with
          tickAccumulator := (s.voice v).tickAccumulator + 1 / (s.sampleRate.toNat : ℚ) }

/-- R171, R172, R192, R193, R195: one sample of an active voice in which a tick falls: the accumulator
advances less one tick period; the envelope ticks first, and unless it ended, vibrato, arpeggio, sequencer
and pitch follow in that order; then the amplitude at the phase is scaled and the phase advances, or
silence where the envelope ended. -/
def Obligations.RenderOneSampleWithTick : Prop :=
  ∀ (s : State) (v : Handle) (e w : Voice), s.Good Config.hw → validHandle Config.hw s v = true →
    (s.voice v).active = true →
    1 / 50 ≤ (s.voice v).tickAccumulator + 1 / (s.sampleRate.toNat : ℚ) →
    e = envTick { s.voice v with
      tickAccumulator := (s.voice v).tickAccumulator + 1 / (s.sampleRate.toNat : ℚ) - 1 / 50 } →
    w = (if e.envelopeState = .off then e
      else recompute Config.hw s.sampleRate.toNat
        (seqTick Config.hw (arpTick (vibTick Config.hw e)))) →
    ∃ t, exec (.render v 1) s = .next t ∧ KeptBut v s t ∧
      (w.active = false → t.voice v = w ∧ t.replies = s.replies ++ [⟨0, [⟨0, 0⟩]⟩]) ∧
      (w.active = true → t.voice v = advancePhase Config.hw w ∧
        ∃ a x, IsAmplitude Config.hw w a ∧
          x = a * (w.envelopeVolume / 64) * ((w.velocity.toNat : ℚ) / 127) ∧
          t.replies = s.replies ++ [⟨0, [⟨x, x⟩]⟩])

/-- R196: every frame of every RENDER carries the same value on both channels. -/
def Obligations.ChannelsEqual : Prop :=
  ∀ (s t : State) (v : Handle) (n : Operand) (r : Word) (frames : List Frame),
    exec (.render v n) s = .next t → t.replies = s.replies ++ [⟨r, frames⟩] →
    ∀ f ∈ frames, f.left = f.right

/-- R195, R64: every frame rendered from a good state is in [-1, 1] on both channels. -/
def Obligations.FramesInRange : Prop :=
  ∀ (s t : State) (v : Handle) (n : Operand) (r : Word) (frames : List Frame),
    s.Good Config.hw → exec (.render v n) s = .next t →
    t.replies = s.replies ++ [⟨r, frames⟩] →
    ∀ f ∈ frames, -1 ≤ f.left ∧ f.left ≤ 1 ∧ -1 ≤ f.right ∧ f.right ≤ 1

/-- R190: RENDER never makes a voice active. -/
def Obligations.RenderNeverWakes : Prop :=
  ∀ (s t : State) (v : Handle) (n : Operand), exec (.render v n) s = .next t →
    (t.voice v).active = true → (s.voice v).active = true

/-- R198: splitting one RENDER into two gives the same frames and the same final state. -/
def Obligations.RenderSplits : Prop :=
  ∀ (s t u : State) (v : Handle) (m n : Operand), m.toNat + n.toNat < 2 ^ 24 →
    exec (.render v m) s = .next t → exec (.render v n) t = .next u →
    ∃ w f g, exec (.render v (m + n)) s = .next w ∧
      t.replies = s.replies ++ [⟨0, f⟩] ∧ u.replies = t.replies ++ [⟨0, g⟩] ∧
      w.replies = s.replies ++ [⟨0, f ++ g⟩] ∧
      w.valid = u.valid ∧ w.sampleRate = u.sampleRate ∧ ∀ x, w.voice x = u.voice x

/-- R192, R197: the tick clock. Over N samples of a voice that is still sounding at the end the
accumulator advances by N sample periods less a whole number of ticks of 1/50 s, and stays in
[0, 1/50). -/
def Obligations.TickClockAdvances : Prop :=
  ∀ (s t : State) (v : Handle) (n : Operand), s.Good Config.hw →
    validHandle Config.hw s v = true → exec (.render v n) s = .next t →
    (t.voice v).active = true →
    ∃ k : ℕ, (t.voice v).tickAccumulator + k / 50 =
        (s.voice v).tickAccumulator + n.toNat / s.sampleRate.toNat ∧
      0 ≤ (t.voice v).tickAccumulator ∧ (t.voice v).tickAccumulator < 1 / 50

/-- R158: nothing in the datapath reads a sequencer step's transpose or effect. NOTE_ON, NOTE_OFF, RENDER
and SET_PARAM of voice v with these fields 0 give the same reply, the same voice v but for them, and the
same everything else. -/
def Obligations.TransposeAndEffectUnused : Prop :=
  ∀ (s t : State) (v : Handle) (i : Instr), drivesDatapath v i → exec i s = .next t →
    ∃ t', exec i (s.setVoice v (withoutTransposeAndEffect (s.voice v))) = .next t' ∧
      t'.replies = t.replies ∧ KeptBut v t t' ∧
      t'.voice v = withoutTransposeAndEffect (t.voice v)

/-- R130, R137, R142: a note without a sustain duration, on a synth or a looping PCM sample, that is not
in Release stays so in every step whose command is not one that ends notes on its voice, to whatever
voice that command is addressed; and RENDER of it, of however many samples, completes. -/
def Obligations.NoteWithoutDurationHolds : Prop :=
  (∀ (s t : State) (v : Handle), s.Good Config.hw → (s.voice v).Held →
    (∀ c rest i, s.commands = c :: rest → decode c = .ok i → ¬ endsNote v i) →
    step s = .next t → t.Good Config.hw ∧ (t.voice v).Held) ∧
  ∀ (s : State) (v : Handle) (n : Operand), s.Good Config.hw → (s.voice v).Held →
    ∃ t, exec (.render v n) s = .next t ∧ t.Good Config.hw ∧ (t.voice v).Held

/-! ## Envelope -/

/-- R130: the transitions one envelope tick can make, and no other; Sustain is left only where it has a
duration. -/
def Obligations.EnvelopeTransitions : Prop :=
  ∀ v : Voice,
    (v.envelopeState = .off → envTick v = v) ∧
    (v.envelopeState = .attack →
      (envTick v).envelopeState = .attack ∨ (envTick v).envelopeState = .decay ∨
      (envTick v).envelopeState = .sustain) ∧
    (v.envelopeState = .decay →
      (envTick v).envelopeState = .decay ∨ (envTick v).envelopeState = .sustain) ∧
    (v.envelopeState = .sustain →
      (envTick v).envelopeState = .sustain ∨
      (v.instrument.sustainLength ≠ 0 ∧
        ((envTick v).envelopeState = .release ∨ (envTick v).envelopeState = .off))) ∧
    (v.envelopeState = .release →
      (envTick v).envelopeState = .release ∨ (envTick v).envelopeState = .off)

/-- R135: from volume 0, after k ticks of Attack, k below the attack length (below 1 for an attack level
of 0), the volume is k · attackLevel / attackLength; at the end of the ramp the envelope is in Decay at
the attack level, or, for a decay of length 0, in Sustain at the sustain level. -/
def Obligations.AttackRamp : Prop :=
  ∀ (v : Voice) (n : ℕ), v.envelopeState = .attack → v.envelopeVolume = 0 → v.envelopeTicks = 0 →
    0 < v.instrument.attackLength.toNat → v.instrument.attackLevel.toNat ≤ 64 →
    v.instrument.sustainLevel.toNat ≤ 64 →
    n = (if v.instrument.attackLevel = 0 then 1 else v.instrument.attackLength.toNat) →
    (∀ k < n,
      (envTick^[k] v).envelopeState = .attack ∧ (envTick^[k] v).envelopeTicks = k ∧
      (envTick^[k] v).envelopeVolume =
        k * v.instrument.attackLevel.toNat / v.instrument.attackLength.toNat) ∧
    (envTick^[n] v).envelopeTicks = 0 ∧
    (v.instrument.decayLength ≠ 0 →
      (envTick^[n] v).envelopeState = .decay ∧
      (envTick^[n] v).envelopeVolume = v.instrument.attackLevel.toNat) ∧
    (v.instrument.decayLength = 0 →
      (envTick^[n] v).envelopeState = .sustain ∧
      (envTick^[n] v).envelopeVolume = v.instrument.sustainLevel.toNat)

/-- R136: from the attack level, after k ticks of Decay, k below the decay length (below 1 for a decay
level equal to the attack level), the volume has fallen by k · (attackLevel - decayLevel) / decayLength;
at the end of the ramp the envelope is in Sustain at the sustain level. -/
def Obligations.DecayRamp : Prop :=
  ∀ (v : Voice) (n : ℕ), v.envelopeState = .decay → v.envelopeTicks = 0 →
    v.envelopeVolume = (v.instrument.attackLevel.toNat : ℚ) →
    0 < v.instrument.decayLength.toNat →
    v.instrument.decayLevel.toNat ≤ v.instrument.attackLevel.toNat →
    v.instrument.attackLevel.toNat ≤ 64 → v.instrument.sustainLevel.toNat ≤ 64 →
    n = (if v.instrument.decayLevel = v.instrument.attackLevel then 1
      else v.instrument.decayLength.toNat) →
    (∀ k < n,
      (envTick^[k] v).envelopeState = .decay ∧ (envTick^[k] v).envelopeTicks = k ∧
      (envTick^[k] v).envelopeVolume = v.instrument.attackLevel.toNat -
        k * ((v.instrument.attackLevel.toNat : ℚ) - v.instrument.decayLevel.toNat)
          / v.instrument.decayLength.toNat) ∧
    (envTick^[n] v).envelopeState = .sustain ∧ (envTick^[n] v).envelopeTicks = 0 ∧
    (envTick^[n] v).envelopeVolume = v.instrument.sustainLevel.toNat

/-- R137: a Sustain of length n > 0 lasts exactly n ticks at the sustain level and then is Release at
that level, or Off where the release has length 0; a Sustain of length 0 never ends. -/
def Obligations.SustainLasts : Prop :=
  ∀ v : Voice, v.envelopeState = .sustain → v.envelopeTicks = 0 →
    v.instrument.sustainLevel.toNat ≤ 64 →
    (∀ k, v.instrument.sustainLength = 0 →
      envTick^[k + 1] v = { v with envelopeVolume := (v.instrument.sustainLevel.toNat : ℚ) }) ∧
    (∀ k, k + 1 < v.instrument.sustainLength.toNat →
      envTick^[k + 1] v =
        { v with
          envelopeVolume := (v.instrument.sustainLevel.toNat : ℚ), envelopeTicks := k + 1 }) ∧
    (v.instrument.sustainLength ≠ 0 → v.instrument.releaseLength ≠ 0 →
      envTick^[v.instrument.sustainLength.toNat] v =
        { v with
          envelopeVolume := (v.instrument.sustainLevel.toNat : ℚ)
          envelopeTicks := 0, envelopeState := .release }) ∧
    (v.instrument.sustainLength ≠ 0 → v.instrument.releaseLength = 0 →
      (envTick^[v.instrument.sustainLength.toNat] v).envelopeState = .off ∧
      (envTick^[v.instrument.sustainLength.toNat] v).active = false)

/-- R138, R141: a Release entered at any volume never rises; while the straight line of step
sustainLevel / releaseLength from that volume is above 0, before releaseLength ticks, the volume is on
it; from the first tick at which the line is not above 0 or releaseLength ticks have passed the voice is
Off, inactive and at volume 0. Entered at the sustain level it lasts exactly releaseLength ticks. -/
def Obligations.ReleaseEnds : Prop :=
  ∀ v : Voice, v.envelopeState = .release → v.envelopeTicks = 0 → 0 ≤ v.envelopeVolume →
    0 < v.instrument.releaseLength.toNat →
    (∀ k, (envTick^[k + 1] v).envelopeVolume ≤ (envTick^[k] v).envelopeVolume) ∧
    (∀ k < v.instrument.releaseLength.toNat, v.envelopeVolume ≤ 64 →
      0 < v.envelopeVolume -
        k * ((v.instrument.sustainLevel.toNat : ℚ) / v.instrument.releaseLength.toNat) →
      (envTick^[k] v).envelopeState = .release ∧ (envTick^[k] v).envelopeTicks = k ∧
      (envTick^[k] v).envelopeVolume = v.envelopeVolume -
        k * ((v.instrument.sustainLevel.toNat : ℚ) / v.instrument.releaseLength.toNat)) ∧
    (∀ k, 1 ≤ k →
      (v.instrument.releaseLength.toNat ≤ k ∨ v.envelopeVolume -
        k * ((v.instrument.sustainLevel.toNat : ℚ) / v.instrument.releaseLength.toNat) ≤ 0) →
      (envTick^[k] v).envelopeState = .off ∧ (envTick^[k] v).envelopeVolume = 0 ∧
      (envTick^[k] v).active = false) ∧
    (v.envelopeVolume = v.instrument.sustainLevel.toNat → 0 < v.instrument.sustainLevel.toNat →
      v.instrument.sustainLevel.toNat ≤ 64 →
      (∀ k < v.instrument.releaseLength.toNat, (envTick^[k] v).envelopeState = .release) ∧
      (envTick^[v.instrument.releaseLength.toNat] v).envelopeState = .off)

/-! ## Modulation -/

/-- R151: the LFO stands still for the ticks of the delay, the tick that brings the countdown to 0
included; from then on it advances by vibratoSpeed / VIB_STEPS of a cycle in each tick, whole cycles
removed. -/
def Obligations.VibratoDelayThenAdvance : Prop :=
  ∀ v : Voice, 0 ≤ v.vibratoPhase → v.vibratoPhase < 1 →
    (∀ k ≤ v.vibratoDelayRemaining, (vibTick Config.hw)^[k] v =
      { v with vibratoDelayRemaining := v.vibratoDelayRemaining - k }) ∧
    ∀ k : ℕ, ∃ cycles : ℕ,
      ((vibTick Config.hw)^[v.vibratoDelayRemaining + k] v).vibratoPhase =
        v.vibratoPhase + k * ((v.instrument.vibratoSpeed.toNat : ℚ) / Config.hw.vibSteps) - cycles ∧
      0 ≤ ((vibTick Config.hw)^[v.vibratoDelayRemaining + k] v).vibratoPhase ∧
      ((vibTick Config.hw)^[v.vibratoDelayRemaining + k] v).vibratoPhase < 1

/-- R152, R153, R155, R161: the vibrato offset in cents, and the increment Recompute writes, from the
note, the selected arpeggio entry, the vibrato offset and the finetune; Recompute writes nothing else. A
vibrato depth of 0 gives no offset whatever the phase, and with a finetune of 0 too the increment is that
of the note and its arpeggio entry alone. -/
def Obligations.ZeroDepthNoOffset : Prop :=
  ∀ (v : Voice) (rate : ℕ) (offset : ℤ) (cents : ℚ),
    offset = (if v.instrument.arpeggioLength = 0 then 0 else v.instrument.arp[v.arpeggioIndex].toInt) →
    cents = Config.hw.sin v.vibratoPhase * v.instrument.vibratoDepth.toNat * Config.hw.vibDepthCents →
    vibCents Config.hw v = cents ∧ arpOffset v = offset ∧
    (v.instrument.kind = .wavetableSynth → recompute Config.hw rate v =
      { v with
        phaseIncrement :=
          Config.hw.note2freq (v.baseNote.toNat + offset)
            * Config.hw.cents2ratio (cents + v.instrument.finetune.toInt * Config.hw.finetuneCents)
            / rate * Config.hw.waveLen v.activeWave.toNat }) ∧
    (v.instrument.kind = .pcmSample → recompute Config.hw rate v =
      { v with
        phaseIncrement :=
          Config.hw.note2freq (v.baseNote.toNat + offset)
            * Config.hw.cents2ratio (cents + v.instrument.finetune.toInt * Config.hw.finetuneCents)
            / Config.hw.nativeFreq }) ∧
    (v.instrument.vibratoDepth = 0 → cents = 0 ∧
      (v.instrument.finetune = 0 →
        frequency Config.hw v = Config.hw.note2freq (v.baseNote.toNat + offset)))

/-- R154: the arpeggio index advances by one in each tick and wraps at the length; with length 0
nothing changes. -/
def Obligations.ArpeggioCycles : Prop :=
  ∀ v : Voice,
    (v.instrument.arpeggioLength = 0 → arpTick v = v) ∧
    (0 < v.instrument.arpeggioLength.toNat → v.instrument.arpeggioLength.toNat ≤ 16 →
      v.arpeggioIndex.val < v.instrument.arpeggioLength.toNat →
      ∀ k : ℕ, (arpTick^[k] v).arpeggioIndex.val =
          (v.arpeggioIndex.val + k) % v.instrument.arpeggioLength.toNat ∧
        arpTick^[k] v = { v with arpeggioIndex := (arpTick^[k] v).arpeggioIndex })

/-- R157: the tick of a sequencer of speed or length 0 does nothing; else it counts, and at sequencerSpeed
it applies its entry: the wave, the next step, and the phase less whole lengths of the new wave, brought
below that length. From the start of a note the initial wave stays for sequencerSpeed ticks, then the
entries apply in turn, sequencerSpeed ticks each, starting again at entry 0. -/
def Obligations.SequencerCycles : Prop :=
  ∀ v : Voice, v.instrument.sequencerLength.toNat ≤ 16 →
    ((v.instrument.sequencerSpeed = 0 ∨ v.instrument.sequencerLength = 0) →
      seqTick Config.hw v = v) ∧
    (v.instrument.sequencerSpeed ≠ 0 → v.instrument.sequencerLength ≠ 0 →
      (v.sequencerTickCounter + 1 < v.instrument.sequencerSpeed.toNat →
        seqTick Config.hw v = { v with sequencerTickCounter := v.sequencerTickCounter + 1 }) ∧
      (v.instrument.sequencerSpeed.toNat ≤ v.sequencerTickCounter + 1 →
        ∃ (wave : Byte) (next : Fin 16) (q : ℚ) (m : ℕ),
          seqTick Config.hw v =
            { v with
              sequencerTickCounter := 0, activeWave := wave, sequencerStep := next,
              oscillatorPhase := q } ∧
          wave = v.instrument.seq[v.sequencerStep].wave ∧
          next.val = (v.sequencerStep.val + 1) % v.instrument.sequencerLength.toNat ∧
          q = v.oscillatorPhase - m * Config.hw.waveLen wave.toNat ∧
          q < Config.hw.waveLen wave.toNat ∧
          (v.oscillatorPhase < Config.hw.waveLen wave.toNat → m = 0) ∧
          (0 ≤ v.oscillatorPhase → 0 ≤ q)) ∧
      (v.sequencerTickCounter = 0 → v.sequencerStep = 0 →
        (∀ j < v.instrument.sequencerSpeed.toNat,
          ((seqTick Config.hw)^[j] v).activeWave = v.activeWave) ∧
        ∀ k j : ℕ, j < v.instrument.sequencerSpeed.toNat →
          ((seqTick Config.hw)^[v.instrument.sequencerSpeed.toNat * (k + 1) + j] v).activeWave =
            v.instrument.seq[Fin.ofNat 16 (k % v.instrument.sequencerLength.toNat)].wave ∧
          ((seqTick Config.hw)^[v.instrument.sequencerSpeed.toNat * (k + 1) + j] v).sequencerStep.val =
            (k + 1) % v.instrument.sequencerLength.toNat))

/-- R163: for a loaded PCM instrument at the start of a note the modulation of a tick does nothing, and
the increment is that of the note and the finetune, the same at every tick. -/
def Obligations.PcmModulationIdle : Prop :=
  ∀ (v : Voice) (rate : Nat), v.instrument.Legal Config.hw → v.instrument.kind = .pcmSample →
    v.vibratoPhase = 0 → v.vibratoDelayRemaining = 0 →
    vibTick Config.hw v = v ∧ arpTick v = v ∧ seqTick Config.hw v = v ∧
    (recompute Config.hw rate v).phaseIncrement =
      Config.hw.note2freq v.baseNote.toNat *
        Config.hw.cents2ratio (v.instrument.finetune.toInt * Config.hw.finetuneCents)
        / Config.hw.nativeFreq

/-! ## Oscillator -/

/-- R173: the wavetable advance is the sum less whole wave lengths, in [0, WAVE_LEN), and changes the
phase alone. -/
def Obligations.WavetableAdvance : Prop :=
  ∀ v : Voice, v.instrument.kind = .wavetableSynth → 0 ≤ v.oscillatorPhase →
    0 ≤ v.phaseIncrement →
    ∃ (k : ℕ) (q : ℚ), advancePhase Config.hw v = { v with oscillatorPhase := q } ∧
      q = v.oscillatorPhase + v.phaseIncrement - k * Config.hw.waveLen v.activeWave.toNat ∧
      0 ≤ q ∧ q < Config.hw.waveLen v.activeWave.toNat

/-- R176: the advance of a looping sample is the sum as long as that is before the loop end; else it is
the sum less whole loop lengths, from the loop start on and before the loop end. -/
def Obligations.PcmLoopAdvance : Prop :=
  ∀ v : Voice, v.instrument.kind = .pcmSample → 1 < v.instrument.loopLength.toNat →
    ∃ (k : ℕ) (q : ℚ), advancePhase Config.hw v = { v with oscillatorPhase := q } ∧
      q = v.oscillatorPhase + v.phaseIncrement - k * v.instrument.loopLength.toNat ∧
      (v.oscillatorPhase + v.phaseIncrement < loopEnd v.instrument → k = 0) ∧
      ((loopEnd v.instrument : ℚ) ≤ v.oscillatorPhase + v.phaseIncrement →
        1 ≤ k ∧ (v.instrument.loopStart.toNat : ℚ) ≤ q ∧ q < loopEnd v.instrument)

/-- R177: the advance of a sample that does not loop is the sum, and at or past the sample's end it
forces the voice Off with phase 0. -/
def Obligations.PcmEndStops : Prop :=
  ∀ v : Voice, v.instrument.kind = .pcmSample → v.instrument.loopLength.toNat ≤ 1 →
    (v.oscillatorPhase + v.phaseIncrement < v.instrument.sampleLength.toNat →
      advancePhase Config.hw v =
        { v with oscillatorPhase := v.oscillatorPhase + v.phaseIncrement }) ∧
    ((v.instrument.sampleLength.toNat : ℚ) ≤ v.oscillatorPhase + v.phaseIncrement →
      advancePhase Config.hw v =
        { v with
          oscillatorPhase := 0, envelopeVolume := 0, envelopeState := .off, active := false })
end

