-- ==== Sys2Proof/Laws/Memory.lean ====
section
/-! SUPPORT. The sample RAM: every operation keeps the canonical form, and what a read finds after a load. -/

namespace Sys2Proof.Laws

open Sys2Proof.Machine

theorem cellsFrom_wf (bs : List Byte) : ∀ a, Memory.wf (Memory.cellsFrom a bs) = true := by
  induction bs with
  | nil => intro a; rfl
  | cons b bs ih =>
    intro a
    cases bs with
    | nil => rfl
    | cons c cs =>
      have := ih (a + 1)
      simp only [Memory.cellsFrom, Memory.wf] at this ⊢
      simpa using this

/-- A load leaves the canonical form. -/
theorem load_wf (bs : List Byte) : Memory.wf (Memory.load bs) = true := cellsFrom_wf bs 0

/-- The sample RAM with nothing specified is in canonical form. -/
theorem unspecified_wf : Memory.wf Memory.unspecified = true := rfl

theorem cellsFrom_read? (bs : List Byte) :
    ∀ a i, Memory.read? (Memory.cellsFrom a bs) i = if a ≤ i then bs[i - a]? else none := by
  induction bs with
  | nil => intro a i; simp [Memory.cellsFrom, Memory.read?]
  | cons b bs ih =>
    intro a i
    simp only [Memory.cellsFrom, Memory.read?, ih]
    by_cases h : a = i
    · subst h; simp
    · by_cases h2 : a ≤ i
      · have h3 : a + 1 ≤ i := by omega
        have h4 : i - a = (i - (a + 1)) + 1 := by omega
        simp [h, h2, h3, h4]
      · have h3 : ¬ a + 1 ≤ i := by omega
        simp [h, h2, h3]

/-- A read after a load finds the byte loaded there, and no value past the last. -/
@[simp] theorem load_read? (bs : List Byte) (i : Nat) :
    Memory.read? (Memory.load bs) i = bs[i]? := by
  simp [Memory.load, cellsFrom_read?]

@[simp] theorem unspecified_read? (i : Nat) : Memory.read? Memory.unspecified i = none := rfl

end Sys2Proof.Laws
end

