-- ==== Sys2Proof/Laws/Envelope.lean ====
section
/-! SUPPORT. What the envelope micro-operations can do: their frames, once each, and that they keep the
envelope's invariants. -/

namespace Sys2Proof.Laws

open Sys2Proof.Machine

/-- Only the four envelope registers differ between two voices. -/
def EnvFrame (v w : Voice) : Prop :=
  w = { v with
    active := w.active, envelopeState := w.envelopeState,
    envelopeVolume := w.envelopeVolume, envelopeTicks := w.envelopeTicks }

theorem EnvFrame.refl (v : Voice) : EnvFrame v v := rfl

theorem EnvFrame.trans {u v w : Voice} (h : EnvFrame u v) (k : EnvFrame v w) : EnvFrame u w := by
  unfold EnvFrame at *
  rw [k, h]

theorem EnvFrame.instrument {v w : Voice} (h : EnvFrame v w) : w.instrument = v.instrument := by
  unfold EnvFrame at h; rw [h]
theorem EnvFrame.sram {v w : Voice} (h : EnvFrame v w) : w.sram = v.sram := by
  unfold EnvFrame at h; rw [h]
theorem EnvFrame.allocated {v w : Voice} (h : EnvFrame v w) : w.allocated = v.allocated := by
  unfold EnvFrame at h; rw [h]
theorem EnvFrame.loaded {v w : Voice} (h : EnvFrame v w) : w.loaded = v.loaded := by
  unfold EnvFrame at h; rw [h]
theorem EnvFrame.oscillatorPhase {v w : Voice} (h : EnvFrame v w) :
    w.oscillatorPhase = v.oscillatorPhase := by
  unfold EnvFrame at h; rw [h]
theorem EnvFrame.phaseIncrement {v w : Voice} (h : EnvFrame v w) :
    w.phaseIncrement = v.phaseIncrement := by
  unfold EnvFrame at h; rw [h]
theorem EnvFrame.tickAccumulator {v w : Voice} (h : EnvFrame v w) :
    w.tickAccumulator = v.tickAccumulator := by
  unfold EnvFrame at h; rw [h]
theorem EnvFrame.vibratoPhase {v w : Voice} (h : EnvFrame v w) : w.vibratoPhase = v.vibratoPhase := by
  unfold EnvFrame at h; rw [h]
theorem EnvFrame.vibratoDelayRemaining {v w : Voice} (h : EnvFrame v w) :
    w.vibratoDelayRemaining = v.vibratoDelayRemaining := by
  unfold EnvFrame at h; rw [h]
theorem EnvFrame.arpeggioIndex {v w : Voice} (h : EnvFrame v w) :
    w.arpeggioIndex = v.arpeggioIndex := by
  unfold EnvFrame at h; rw [h]
theorem EnvFrame.sequencerStep {v w : Voice} (h : EnvFrame v w) :
    w.sequencerStep = v.sequencerStep := by
  unfold EnvFrame at h; rw [h]
theorem EnvFrame.sequencerTickCounter {v w : Voice} (h : EnvFrame v w) :
    w.sequencerTickCounter = v.sequencerTickCounter := by
  unfold EnvFrame at h; rw [h]
theorem EnvFrame.activeWave {v w : Voice} (h : EnvFrame v w) : w.activeWave = v.activeWave := by
  unfold EnvFrame at h; rw [h]
theorem EnvFrame.baseNote {v w : Voice} (h : EnvFrame v w) : w.baseNote = v.baseNote := by
  unfold EnvFrame at h; rw [h]
theorem EnvFrame.velocity {v w : Voice} (h : EnvFrame v w) : w.velocity = v.velocity := by
  unfold EnvFrame at h; rw [h]

/-! ## Frames -/

theorem forceOff_frame (v : Voice) : EnvFrame v (forceOff v) := rfl

theorem enterRelease_frame (v : Voice) : EnvFrame v (enterRelease v) := by
  unfold enterRelease; dsimp only; split <;> rfl

theorem enterSustain_frame (v : Voice) : EnvFrame v (enterSustain v) := rfl

theorem enterDecay_frame (v : Voice) : EnvFrame v (enterDecay v) := by
  unfold enterDecay; dsimp only; split <;> rfl

theorem enterAttack_frame (v : Voice) : EnvFrame v (enterAttack v) := by
  unfold enterAttack; dsimp only; split
  · exact EnvFrame.trans (by rfl) (enterDecay_frame _)
  · rfl

theorem attackStep_frame (v : Voice) : EnvFrame v (attackStep v) := by
  unfold attackStep; dsimp only; split
  · exact EnvFrame.trans (by rfl) (enterDecay_frame _)
  · rfl

theorem decayStep_frame (v : Voice) : EnvFrame v (decayStep v) := by
  unfold decayStep; dsimp only; split <;> rfl

theorem sustainStep_frame (v : Voice) : EnvFrame v (sustainStep v) := by
  unfold sustainStep; dsimp only; split
  · rfl
  · split
    · exact EnvFrame.trans (by rfl) (enterRelease_frame _)
    · rfl

theorem releaseStep_frame (v : Voice) : EnvFrame v (releaseStep v) := by
  unfold releaseStep; dsimp only; split <;> rfl

theorem envStep_frame (v : Voice) : EnvFrame v (envStep v) := by
  unfold envStep
  split
  · rfl
  · exact attackStep_frame v
  · exact decayStep_frame v
  · exact sustainStep_frame v
  · exact releaseStep_frame v

theorem envClamp_frame (v : Voice) : EnvFrame v (envClamp v) := by
  unfold envClamp; split <;> rfl

theorem envTick_frame (v : Voice) : EnvFrame v (envTick v) :=
  (envStep_frame v).trans (envClamp_frame _)

/-! ## The clamp -/

@[simp] theorem envClamp_envelopeState (v : Voice) : (envClamp v).envelopeState = v.envelopeState := by
  unfold envClamp; split <;> rfl
@[simp] theorem envClamp_envelopeTicks (v : Voice) : (envClamp v).envelopeTicks = v.envelopeTicks := by
  unfold envClamp; split <;> rfl
@[simp] theorem envClamp_active (v : Voice) : (envClamp v).active = v.active := by
  unfold envClamp; split <;> rfl

theorem clampQ_bounds (x : ℚ) : 0 ≤ clampQ x 0 maxVolume ∧ clampQ x 0 maxVolume ≤ maxVolume := by
  unfold clampQ
  exact ⟨le_max_left _ _, max_le (by norm_num [maxVolume]) (min_le_left _ _)⟩

/-- A volume in range passes the clamp unchanged (R139). -/
theorem clampQ_id {x : ℚ} (h0 : 0 ≤ x) (h1 : x ≤ maxVolume) : clampQ x 0 maxVolume = x := by
  unfold clampQ
  rw [min_eq_right h1, max_eq_right h0]

theorem level_nonneg (b : Byte) : 0 ≤ level b := by unfold level; positivity

theorem level_le {b : Byte} (h : b.toNat ≤ maxVolume) : level b ≤ maxVolume := by
  unfold level; exact_mod_cast h

theorem byte_ne_zero_iff (b : Byte) : b ≠ 0 ↔ 0 < b.toNat := by
  rw [Ne, ← BitVec.toNat_inj]; simp

theorem byte_eq_zero_iff (b : Byte) : b = 0 ↔ b.toNat = 0 := by
  rw [← BitVec.toNat_inj]; simp

/-! ## The envelope's invariants

`EnvReady` is the invariant less the range of the volume, which the clamp of EnvTick restores. -/

/-- The envelope's invariants, less the range of the volume. -/
structure EnvReady (v : Voice) : Prop where
  off_iff : v.envelopeState = .off ↔ v.active = false
  off_volume : v.envelopeState = .off → v.envelopeVolume = 0
  ticks : v.envelopeTicks ≤ 255
  attack : v.envelopeState = .attack → v.envelopeTicks < v.instrument.attackLength.toNat
  decay : v.envelopeState = .decay → v.envelopeTicks < v.instrument.decayLength.toNat
  sustain : v.envelopeState = .sustain → 0 < v.instrument.sustainLength.toNat →
    v.envelopeTicks < v.instrument.sustainLength.toNat
  release : v.envelopeState = .release → v.envelopeTicks < v.instrument.releaseLength.toNat

theorem EnvReady.of_good {v : Voice} (h : v.EnvelopeGood) : EnvReady v :=
  ⟨h.off_iff, h.off_volume, h.ticks, h.attack, h.decay, h.sustain, h.release⟩

theorem forceOff_ready {v : Voice} (h : v.envelopeTicks ≤ 255) : EnvReady (forceOff v) := by
  constructor <;> simp [forceOff, h]

theorem enterSustain_ready {v : Voice} (h : v.active = true) : EnvReady (enterSustain v) := by
  constructor <;> simp [enterSustain, h]

theorem enterRelease_ready {v : Voice} (h : v.active = true) : EnvReady (enterRelease v) := by
  unfold enterRelease; dsimp only
  split
  · exact forceOff_ready (by simp)
  · rename_i hz
    have := (byte_ne_zero_iff _).mp hz
    constructor <;> simp_all

theorem enterDecay_ready {v : Voice} (h : v.active = true) : EnvReady (enterDecay v) := by
  unfold enterDecay; dsimp only
  split
  · exact enterSustain_ready h
  · rename_i hz
    have := (byte_ne_zero_iff _).mp hz
    constructor <;> simp_all

theorem enterAttack_ready {v : Voice} (h : v.active = true) : EnvReady (enterAttack v) := by
  unfold enterAttack; dsimp only
  split
  · exact enterDecay_ready h
  · rename_i hz
    have := (byte_ne_zero_iff _).mp hz
    constructor <;> simp_all

theorem active_of_state {v : Voice} (h : EnvReady v) (ne : v.envelopeState ≠ .off) :
    v.active = true := by
  cases ha : v.active with
  | true => rfl
  | false => exact absurd (h.off_iff.mpr ha) ne

theorem attackStep_ready {v : Voice} (h : EnvReady v) (st : v.envelopeState = .attack) :
    EnvReady (attackStep v) := by
  have act := active_of_state h (by simp [st])
  unfold attackStep; dsimp only
  split
  · exact enterDecay_ready act
  · rename_i hn
    have hlt : v.envelopeTicks + 1 < v.instrument.attackLength.toNat := by
      rw [not_or] at hn; omega
    have := v.instrument.attackLength.isLt
    constructor <;> simp_all
    omega

theorem decayStep_ready {v : Voice} (h : EnvReady v) (st : v.envelopeState = .decay) :
    EnvReady (decayStep v) := by
  have act := active_of_state h (by simp [st])
  unfold decayStep; dsimp only
  split
  · exact enterSustain_ready act
  · rename_i hn
    have hlt : v.envelopeTicks + 1 < v.instrument.decayLength.toNat := by
      rw [not_or] at hn; omega
    have := v.instrument.decayLength.isLt
    constructor <;> simp_all
    omega

theorem sustainStep_ready {v : Voice} (h : EnvReady v) (st : v.envelopeState = .sustain) :
    EnvReady (sustainStep v) := by
  have act := active_of_state h (by simp [st])
  unfold sustainStep; dsimp only
  split
  · rename_i hz
    have hz' := (byte_eq_zero_iff _).mp hz
    have := h.ticks
    constructor <;> simp_all
  · split
    · exact enterRelease_ready act
    · rename_i hn
      have := v.instrument.sustainLength.isLt
      constructor <;> simp_all
      omega

theorem releaseStep_ready {v : Voice} (h : EnvReady v) (st : v.envelopeState = .release) :
    EnvReady (releaseStep v) := by
  have act := active_of_state h (by simp [st])
  have hlt := h.release st
  have := v.instrument.releaseLength.isLt
  unfold releaseStep; dsimp only
  split
  · exact forceOff_ready (by simp; omega)
  · rename_i hn
    have hlt : v.envelopeTicks + 1 < v.instrument.releaseLength.toNat := by
      rw [not_or] at hn; omega
    constructor <;> simp_all
    omega

theorem envStep_ready {v : Voice} (h : EnvReady v) : EnvReady (envStep v) := by
  unfold envStep
  split
  · exact h
  · exact attackStep_ready h ‹_›
  · exact decayStep_ready h ‹_›
  · exact sustainStep_ready h ‹_›
  · exact releaseStep_ready h ‹_›

/-- EnvTick never wakes a voice. -/
theorem envStep_active {v : Voice} (h : (envStep v).active = true) : v.active = true := by
  unfold envStep at h
  split at h
  · exact h
  · unfold attackStep enterDecay enterSustain at h; dsimp only at h; split_ifs at h <;> exact h
  · unfold decayStep enterSustain at h; dsimp only at h; split_ifs at h <;> exact h
  · unfold sustainStep enterRelease forceOff at h; dsimp only at h
    split_ifs at h <;> exact h
  · unfold releaseStep forceOff at h; dsimp only at h
    split_ifs at h; exact h

theorem envTick_active {v : Voice} (h : (envTick v).active = true) : v.active = true :=
  envStep_active (by simpa [envTick] using h)

/-- EnvTick keeps the envelope's invariants (R41, R133). -/
theorem envTick_good {v : Voice} (h : v.EnvelopeGood) : (envTick v).EnvelopeGood := by
  have r := envStep_ready (EnvReady.of_good h)
  have fr := envClamp_frame (envStep v)
  have fl := envTick_frame v
  have cases_volume : ((envStep v).envelopeState = .off ∧ (envTick v).envelopeVolume = 0) ∨
      ((envStep v).envelopeState ≠ .off ∧
        (envTick v).envelopeVolume = clampQ (envStep v).envelopeVolume 0 maxVolume) := by
    by_cases ho : (envStep v).envelopeState = .off
    · left; exact ⟨ho, by simp [envTick, envClamp, ho, r.off_volume ho]⟩
    · right; exact ⟨ho, by simp [envTick, envClamp, ho]⟩
  have b := clampQ_bounds (envStep v).envelopeVolume
  refine
    { off_iff := by simpa [envTick] using r.off_iff
      active_loaded := fun ha => by rw [fl.loaded]; exact h.active_loaded (envTick_active ha)
      volume_nonneg := ?_
      volume_le := ?_
      off_volume := fun ho => ?_
      ticks := by simpa [envTick] using r.ticks
      attack := ?_
      decay := ?_
      sustain := ?_
      release := ?_ }
  · rcases cases_volume with ⟨_, e⟩ | ⟨_, e⟩ <;> rw [e]
    exact b.1
  · rcases cases_volume with ⟨_, e⟩ | ⟨_, e⟩ <;> rw [e]
    · norm_num [maxVolume]
    · exact b.2
  · rcases cases_volume with ⟨_, e⟩ | ⟨hn, _⟩
    · exact e
    · exact absurd (by simpa [envTick] using ho) hn
  · simpa [envTick, fr.instrument] using r.attack
  · simpa [envTick, fr.instrument] using r.decay
  · simpa [envTick, fr.instrument] using r.sustain
  · simpa [envTick, fr.instrument] using r.release

end Sys2Proof.Laws
end

