-- ==== Sys2Proof/Laws/Wrap.lean ====
section
/-! SUPPORT. The closed form of the wrap rules does what the spec's loop does: it subtracts as long as the
value is not below the limit, and no longer. -/

namespace Sys2Proof.Laws

open Sys2Proof.Machine

theorem subtractWhile_of_lt {x limit : ℚ} (amount : ℚ) (h : x < limit) :
    subtractWhile x limit amount = x := by simp [subtractWhile, h]

/-- One turn of the loop `while x >= limit: x <- x - amount`. -/
theorem subtractWhile_turn {x limit amount : ℚ} (h : limit ≤ x) (pos : 0 < amount) :
    subtractWhile x limit amount = subtractWhile (x - amount) limit amount := by
  have e : (x - amount - limit) / amount = (x - limit) / amount - 1 := by
    field_simp; ring
  by_cases h2 : x - amount < limit
  · have hf : ⌊(x - limit) / amount⌋ = 0 := by
      rw [Int.floor_eq_zero_iff]
      constructor
      · exact div_nonneg (by linarith) pos.le
      · rw [div_lt_one pos]; linarith
    simp [subtractWhile, not_lt.mpr h, h2, hf]
  · simp only [subtractWhile, not_lt.mpr h, h2, if_false, e, Int.floor_sub_one]
    push_cast; ring

/-- All the loop can do: the result is below the limit, differs from x by a whole number of
subtractions, and where there was one it is not below the limit less the amount. -/
theorem subtractWhile_spec (x limit : ℚ) {amount : ℚ} (pos : 0 < amount) :
    ∃ k : ℕ, subtractWhile x limit amount = x - k * amount ∧ subtractWhile x limit amount < limit ∧
      (limit ≤ x → 1 ≤ k ∧ limit - amount ≤ subtractWhile x limit amount) ∧ (x < limit → k = 0) := by
  by_cases h : x < limit
  · refine ⟨0, ?_, ?_, fun h' => absurd h (not_lt.mpr h'), fun _ => rfl⟩
    · simp [subtractWhile_of_lt amount h]
    · rwa [subtractWhile_of_lt amount h]
  · have hx : limit ≤ x := not_lt.mp h
    have hq : 0 ≤ (x - limit) / amount := div_nonneg (by linarith) pos.le
    have hf : 0 ≤ ⌊(x - limit) / amount⌋ := Int.floor_nonneg.mpr hq
    obtain ⟨n, hn⟩ := Int.eq_ofNat_of_zero_le hf
    have lo := Int.floor_le ((x - limit) / amount)
    have hi := Int.lt_floor_add_one ((x - limit) / amount)
    rw [hn] at lo hi
    have lo' : (n : ℚ) * amount ≤ x - limit := by
      have := (le_div_iff₀ pos).mp lo; exact_mod_cast this
    have hi' : x - limit < ((n : ℚ) + 1) * amount := by
      have := (div_lt_iff₀ pos).mp hi; exact_mod_cast this
    have e : subtractWhile x limit amount = x - ((n + 1 : ℕ) : ℚ) * amount := by
      simp only [subtractWhile, h, if_false, hn]; push_cast; ring
    refine ⟨n + 1, e, ?_, fun _ => ⟨by omega, ?_⟩, fun h' => absurd h' h⟩
    · rw [e]; push_cast; linarith
    · rw [e]; push_cast; linarith

theorem subtractWhile_lt (x limit : ℚ) {amount : ℚ} (pos : 0 < amount) :
    subtractWhile x limit amount < limit := by
  obtain ⟨_, _, h, _⟩ := subtractWhile_spec x limit pos
  exact h

/-- From a non-negative value the loop stays non-negative, when the limit is at least the amount. -/
theorem subtractWhile_nonneg {x limit amount : ℚ} (pos : 0 < amount) (hx : 0 ≤ x)
    (hl : amount ≤ limit) : 0 ≤ subtractWhile x limit amount := by
  obtain ⟨_, _, _, h, _⟩ := subtractWhile_spec x limit pos
  by_cases hlt : x < limit
  · rwa [subtractWhile_of_lt amount hlt]
  · have := (h (not_lt.mp hlt)).2; linarith

end Sys2Proof.Laws
end

