-- ==== Sys2Proof/Laws/Modulation.lean ====
section
/-! SUPPORT. What the modulation micro-operations can do: their frames, and that they keep a good voice good. -/

namespace Sys2Proof.Laws

open Sys2Proof.Machine

/-- Only modulation and pitch registers differ between two voices. -/
def ModFrame (v w : Voice) : Prop :=
  w = { v with
    vibratoPhase := w.vibratoPhase, vibratoDelayRemaining := w.vibratoDelayRemaining,
    arpeggioIndex := w.arpeggioIndex, sequencerStep := w.sequencerStep,
    sequencerTickCounter := w.sequencerTickCounter, activeWave := w.activeWave,
    oscillatorPhase := w.oscillatorPhase, phaseIncrement := w.phaseIncrement }

theorem ModFrame.trans {u v w : Voice} (h : ModFrame u v) (k : ModFrame v w) : ModFrame u w := by
  unfold ModFrame at *
  rw [k, h]

theorem ModFrame.instrument {v w : Voice} (h : ModFrame v w) : w.instrument = v.instrument := by
  unfold ModFrame at h; rw [h]
theorem ModFrame.sram {v w : Voice} (h : ModFrame v w) : w.sram = v.sram := by
  unfold ModFrame at h; rw [h]
theorem ModFrame.allocated {v w : Voice} (h : ModFrame v w) : w.allocated = v.allocated := by
  unfold ModFrame at h; rw [h]
theorem ModFrame.loaded {v w : Voice} (h : ModFrame v w) : w.loaded = v.loaded := by
  unfold ModFrame at h; rw [h]
theorem ModFrame.active {v w : Voice} (h : ModFrame v w) : w.active = v.active := by
  unfold ModFrame at h; rw [h]
theorem ModFrame.envelopeState {v w : Voice} (h : ModFrame v w) :
    w.envelopeState = v.envelopeState := by
  unfold ModFrame at h; rw [h]
theorem ModFrame.envelopeVolume {v w : Voice} (h : ModFrame v w) :
    w.envelopeVolume = v.envelopeVolume := by
  unfold ModFrame at h; rw [h]
theorem ModFrame.envelopeTicks {v w : Voice} (h : ModFrame v w) :
    w.envelopeTicks = v.envelopeTicks := by
  unfold ModFrame at h; rw [h]
theorem ModFrame.tickAccumulator {v w : Voice} (h : ModFrame v w) :
    w.tickAccumulator = v.tickAccumulator := by
  unfold ModFrame at h; rw [h]
theorem ModFrame.baseNote {v w : Voice} (h : ModFrame v w) : w.baseNote = v.baseNote := by
  unfold ModFrame at h; rw [h]
theorem ModFrame.velocity {v w : Voice} (h : ModFrame v w) : w.velocity = v.velocity := by
  unfold ModFrame at h; rw [h]

theorem vibTick_frame (cfg : Config) (v : Voice) : ModFrame v (vibTick cfg v) := by
  unfold vibTick; split <;> rfl

theorem arpTick_frame (v : Voice) : ModFrame v (arpTick v) := by
  unfold arpTick; split <;> rfl

theorem seqTick_frame (cfg : Config) (v : Voice) : ModFrame v (seqTick cfg v) := by
  unfold seqTick; dsimp only; split
  · split <;> rfl
  · rfl

theorem recompute_frame (cfg : Config) (rate : Nat) (v : Voice) : ModFrame v (recompute cfg rate v) :=
  rfl

theorem ModFrame.storageGood {cfg : Config} {v w : Voice} (h : ModFrame v w)
    (g : v.StorageGood cfg) : w.StorageGood cfg := by
  constructor
  · rw [h.sram]; exact g.canonical
  · rw [h.loaded, h.instrument]; exact g.legal
  · rw [h.loaded, h.instrument, h.sram]; exact g.specified
  · rw [h.loaded, h.allocated]; exact g.allocated

theorem ModFrame.envelopeGood {v w : Voice} (h : ModFrame v w) (g : v.EnvelopeGood) :
    w.EnvelopeGood := by
  constructor
  · rw [h.envelopeState, h.active]; exact g.off_iff
  · rw [h.active, h.loaded]; exact g.active_loaded
  · rw [h.envelopeVolume]; exact g.volume_nonneg
  · rw [h.envelopeVolume]; exact g.volume_le
  · rw [h.envelopeState, h.envelopeVolume]; exact g.off_volume
  · rw [h.envelopeTicks]; exact g.ticks
  · rw [h.envelopeState, h.envelopeTicks, h.instrument]; exact g.attack
  · rw [h.envelopeState, h.envelopeTicks, h.instrument]; exact g.decay
  · rw [h.envelopeState, h.envelopeTicks, h.instrument]; exact g.sustain
  · rw [h.envelopeState, h.envelopeTicks, h.instrument]; exact g.release

/-! ## Vibrato -/

theorem vibTick_good {cfg : Config} {v : Voice} (g : v.Good cfg) :
    (vibTick cfg v).Good cfg := by
  have fr := vibTick_frame cfg v
  refine ⟨fr.storageGood g.storage, fr.envelopeGood g.envelope, ?_, ?_⟩
  · have m := g.modulation
    have hs : 0 ≤ v.vibratoPhase + (v.instrument.vibratoSpeed.toNat : ℚ) / cfg.vibSteps :=
      add_nonneg m.vibrato_nonneg (by positivity)
    by_cases hd : 0 < v.vibratoDelayRemaining
    · have e : vibTick cfg v = { v with vibratoDelayRemaining := v.vibratoDelayRemaining - 1 } := by
        simp [vibTick, hd]
      rw [e]
      have := m.vibratoDelay
      exact ⟨m.vibrato_nonneg, m.vibrato_lt, by dsimp only; omega, m.arpeggio, m.sequencerStep,
        m.sequencerCounter, m.sequencerPending⟩
    · have e : vibTick cfg v =
          { v with
            vibratoPhase :=
              subtractWhile (v.vibratoPhase + (v.instrument.vibratoSpeed.toNat : ℚ) / cfg.vibSteps)
                1 1 } := by
        simp [vibTick, hd]
      rw [e]
      exact ⟨subtractWhile_nonneg one_pos hs le_rfl, subtractWhile_lt _ _ one_pos, m.vibratoDelay,
        m.arpeggio, m.sequencerStep, m.sequencerCounter, m.sequencerPending⟩
  · have o := g.oscillator
    unfold vibTick
    split <;> exact ⟨o.phase_nonneg, o.increment_nonneg, o.clock_nonneg, o.clock_lt, o.wave,
      o.synth_phase, o.pcm_phase, o.pcm_loop⟩

/-! ## Arpeggio and sequencer -/

theorem fin_mod_lt {n len : Nat} (pos : 0 < len) : (Fin.ofNat 16 (n % len)).val < len := by
  have h1 : (Fin.ofNat 16 (n % len)).val = n % len % 16 := rfl
  rw [h1]
  exact lt_of_le_of_lt (Nat.mod_le _ _) (Nat.mod_lt _ pos)

theorem arpTick_good {cfg : Config} {v : Voice} (g : v.Good cfg) : (arpTick v).Good cfg := by
  have fr := arpTick_frame v
  have m := g.modulation
  have o := g.oscillator
  refine ⟨fr.storageGood g.storage, fr.envelopeGood g.envelope, ?_, ?_⟩
  · unfold arpTick
    split
    · exact ⟨m.vibrato_nonneg, m.vibrato_lt, m.vibratoDelay, fun h => fin_mod_lt h,
        m.sequencerStep, m.sequencerCounter, m.sequencerPending⟩
    · exact m
  · unfold arpTick
    split <;> exact ⟨o.phase_nonneg, o.increment_nonneg, o.clock_nonneg, o.clock_lt, o.wave,
      o.synth_phase, o.pcm_phase, o.pcm_loop⟩

/-- A loaded voice with a running sequencer holds a synth. -/
theorem synth_of_sequencer {cfg : Config} {v : Voice} (g : v.StorageGood cfg)
    (ld : v.loaded = true) (h : 0 < v.instrument.sequencerLength.toNat) :
    v.instrument.kind = .wavetableSynth := by
  cases hk : v.instrument.kind with
  | wavetableSynth => rfl
  | pcmSample =>
    have := ((g.legal ld).pcmNeutral hk).2.2.1
    simp [this] at h

theorem seqTick_good {cfg : Config} (adm : cfg.Admissible) {v : Voice} (g : v.Good cfg)
    (ld : v.loaded = true) : (seqTick cfg v).Good cfg := by
  have fr := seqTick_frame cfg v
  have m := g.modulation
  have o := g.oscillator
  refine ⟨fr.storageGood g.storage, fr.envelopeGood g.envelope, ?_, ?_⟩
  · unfold seqTick; dsimp only
    split
    · rename_i h
      split
      · exact ⟨m.vibrato_nonneg, m.vibrato_lt, m.vibratoDelay, m.arpeggio,
          fun hp => fin_mod_lt hp, by simp [seqAdvance], fun hp => hp⟩
      · rename_i hlt
        have := v.instrument.sequencerSpeed.isLt
        exact ⟨m.vibrato_nonneg, m.vibrato_lt, m.vibratoDelay, m.arpeggio, m.sequencerStep,
          by dsimp only at *; omega, fun _ => by dsimp only at *; omega⟩
    · exact m
  · unfold seqTick; dsimp only
    split
    · rename_i h
      have hk := synth_of_sequencer g.storage ld h.1
      split
      · have pos : (0 : ℚ) < cfg.waveLen (v.instrument.seq[v.sequencerStep].wave.toNat) := by
          exact_mod_cast adm.waveLen_pos _
        refine ⟨subtractWhile_nonneg pos o.phase_nonneg le_rfl, o.increment_nonneg, o.clock_nonneg,
          o.clock_lt, ?_, fun _ _ => subtractWhile_lt _ _ pos, fun _ hp => ?_, fun _ hp => ?_⟩
        · exact (g.storage.legal ld).seqWave v.sequencerStep
        · exact absurd hp (by simp [seqAdvance, hk])
        · exact absurd hp (by simp [seqAdvance, hk])
      · exact ⟨o.phase_nonneg, o.increment_nonneg, o.clock_nonneg, o.clock_lt, o.wave,
          o.synth_phase, o.pcm_phase, o.pcm_loop⟩
    · exact o

/-! ## Recompute -/

theorem frequency_pos {cfg : Config} (adm : cfg.Admissible) (v : Voice) : 0 < frequency cfg v :=
  mul_pos (adm.note2freq_pos _) (adm.cents2ratio_pos _)

theorem recompute_good {cfg : Config} (adm : cfg.Admissible) (rate : Nat) {v : Voice}
    (g : v.Good cfg) : (recompute cfg rate v).Good cfg := by
  have fr := recompute_frame cfg rate v
  have m := g.modulation
  have o := g.oscillator
  have f := (frequency_pos adm v).le
  have nf := adm.nativeFreq_pos.le
  refine ⟨fr.storageGood g.storage, fr.envelopeGood g.envelope,
    ⟨m.vibrato_nonneg, m.vibrato_lt, m.vibratoDelay, m.arpeggio, m.sequencerStep, m.sequencerCounter,
      m.sequencerPending⟩,
    ⟨o.phase_nonneg, ?_, o.clock_nonneg, o.clock_lt, o.wave, o.synth_phase, o.pcm_phase, o.pcm_loop⟩⟩
  unfold recompute; dsimp only
  split
  · exact mul_nonneg (div_nonneg f (by positivity)) (by positivity)
  · exact div_nonneg f nf

end Sys2Proof.Laws
end

