-- ==== Sys2Proof/Laws/Oscillator.lean ====
section
/-! SUPPORT. The oscillator: a good sounding voice reads inside its memories, and stays good. -/

namespace Sys2Proof.Laws

open Sys2Proof.Machine

/-- Only the phase and the envelope registers differ between two voices. -/
def OscFrame (v w : Voice) : Prop :=
  w = { v with
    oscillatorPhase := w.oscillatorPhase, active := w.active, envelopeState := w.envelopeState,
    envelopeVolume := w.envelopeVolume }

theorem advancePhase_frame (cfg : Config) (v : Voice) : OscFrame v (advancePhase cfg v) := by
  unfold advancePhase; dsimp only
  split
  · rfl
  · split
    · rfl
    · unfold endCheck; split <;> rfl

theorem OscFrame.instrument {v w : Voice} (h : OscFrame v w) : w.instrument = v.instrument := by
  unfold OscFrame at h; rw [h]
theorem OscFrame.sram {v w : Voice} (h : OscFrame v w) : w.sram = v.sram := by
  unfold OscFrame at h; rw [h]
theorem OscFrame.allocated {v w : Voice} (h : OscFrame v w) : w.allocated = v.allocated := by
  unfold OscFrame at h; rw [h]
theorem OscFrame.loaded {v w : Voice} (h : OscFrame v w) : w.loaded = v.loaded := by
  unfold OscFrame at h; rw [h]
theorem OscFrame.tickAccumulator {v w : Voice} (h : OscFrame v w) :
    w.tickAccumulator = v.tickAccumulator := by
  unfold OscFrame at h; rw [h]
theorem OscFrame.baseNote {v w : Voice} (h : OscFrame v w) : w.baseNote = v.baseNote := by
  unfold OscFrame at h; rw [h]
theorem OscFrame.velocity {v w : Voice} (h : OscFrame v w) : w.velocity = v.velocity := by
  unfold OscFrame at h; rw [h]

/-- AdvancePhase never wakes a voice. -/
theorem advancePhase_active {cfg : Config} {v : Voice} (h : (advancePhase cfg v).active = true) :
    v.active = true := by
  unfold advancePhase loopWrap endCheck forceOff at h
  dsimp only at h
  split at h
  · exact h
  · split_ifs at h <;> exact h

/-- The PCM branch of AdvancePhase where the sample loops. -/
theorem loopWrap_good {cfg : Config} {v : Voice} (g : v.Good cfg) (ld : v.loaded = true)
    (hk : v.instrument.kind = .pcmSample) (hl : 1 < v.instrument.loopLength.toNat) (q : ℚ)
    (hq : 0 ≤ q) : (loopWrap { v with oscillatorPhase := q }).Good cfg := by
  have e := g.envelope
  have m := g.modulation
  have o := g.oscillator
  have posl : (0 : ℚ) < v.instrument.loopLength.toNat := by
    exact_mod_cast Nat.lt_trans Nat.zero_lt_one hl
  have legal := g.storage.legal ld
  have inside : loopEnd v.instrument ≤ v.instrument.sampleLength.toNat := legal.loopInside (by omega)
  have lt : subtractWhile q (loopEnd v.instrument) v.instrument.loopLength.toNat
      < loopEnd v.instrument := subtractWhile_lt _ _ posl
  have nn : 0 ≤ subtractWhile q (loopEnd v.instrument) v.instrument.loopLength.toNat := by
    refine subtractWhile_nonneg posl hq ?_
    unfold loopEnd; push_cast
    have : (0 : ℚ) ≤ v.instrument.loopStart.toNat := by positivity
    linarith
  refine ⟨⟨g.storage.canonical, g.storage.legal, g.storage.specified, g.storage.allocated⟩,
    ⟨e.off_iff, e.active_loaded, e.volume_nonneg, e.volume_le, e.off_volume, e.ticks, e.attack,
      e.decay, e.sustain, e.release⟩,
    ⟨m.vibrato_nonneg, m.vibrato_lt, m.vibratoDelay, m.arpeggio, m.sequencerStep,
      m.sequencerCounter, m.sequencerPending⟩,
    ⟨nn, o.increment_nonneg, o.clock_nonneg, o.clock_lt, o.wave, fun _ hs => ?_, fun _ _ => ?_,
      fun _ _ _ => lt⟩⟩
  · exact absurd hs (by simp [loopWrap, hk])
  · refine lt_of_lt_of_le lt ?_
    exact_mod_cast inside

/-- The PCM branch of AdvancePhase where the sample does not loop. -/
theorem endCheck_good {cfg : Config} {v : Voice} (g : v.Good cfg)
    (hk : v.instrument.kind = .pcmSample) (hl : ¬ 1 < v.instrument.loopLength.toNat) (q : ℚ)
    (hq : 0 ≤ q) : (endCheck { v with oscillatorPhase := q }).Good cfg := by
  have e := g.envelope
  have m := g.modulation
  have o := g.oscillator
  have st : ∀ w : Voice, w.sram = v.sram → w.loaded = v.loaded → w.instrument = v.instrument →
      w.allocated = v.allocated → w.StorageGood cfg := by
    intro w h1 h2 h3 h4
    constructor
    · rw [h1]; exact g.storage.canonical
    · rw [h2, h3]; exact g.storage.legal
    · rw [h1, h2, h3]; exact g.storage.specified
    · rw [h2, h4]; exact g.storage.allocated
  unfold endCheck
  split
  · refine ⟨st _ rfl rfl rfl rfl, ?_, ?_, ?_⟩
    · constructor <;> simp [forceOff, e.ticks, maxVolume]
    · exact ⟨m.vibrato_nonneg, m.vibrato_lt, m.vibratoDelay, m.arpeggio, m.sequencerStep,
        m.sequencerCounter, m.sequencerPending⟩
    · exact ⟨le_rfl, o.increment_nonneg, o.clock_nonneg, o.clock_lt, o.wave,
        fun h => absurd h (by simp [forceOff]), fun h => absurd h (by simp [forceOff]),
        fun h => absurd h (by simp [forceOff])⟩
  · rename_i hlt
    refine ⟨st _ rfl rfl rfl rfl,
      ⟨e.off_iff, e.active_loaded, e.volume_nonneg, e.volume_le, e.off_volume, e.ticks, e.attack,
        e.decay, e.sustain, e.release⟩,
      ⟨m.vibrato_nonneg, m.vibrato_lt, m.vibratoDelay, m.arpeggio, m.sequencerStep,
        m.sequencerCounter, m.sequencerPending⟩,
      ⟨hq, o.increment_nonneg, o.clock_nonneg, o.clock_lt, o.wave, fun _ hs => ?_,
        fun _ _ => not_le.mp hlt, fun _ _ h => absurd h hl⟩⟩
    exact absurd hs (by simp [hk])

/-- AdvancePhase keeps a good voice good (R178). -/
theorem advancePhase_good {cfg : Config} (adm : cfg.Admissible) {v : Voice} (g : v.Good cfg)
    (ld : v.loaded = true) : (advancePhase cfg v).Good cfg := by
  have e := g.envelope
  have m := g.modulation
  have o := g.oscillator
  have hq : 0 ≤ v.oscillatorPhase + v.phaseIncrement := add_nonneg o.phase_nonneg o.increment_nonneg
  cases hk : v.instrument.kind with
  | wavetableSynth =>
    have pos : (0 : ℚ) < cfg.waveLen v.activeWave.toNat := by
      exact_mod_cast adm.waveLen_pos _
    have eq : advancePhase cfg v =
        { v with
          oscillatorPhase :=
            subtractWhile (v.oscillatorPhase + v.phaseIncrement) (cfg.waveLen v.activeWave.toNat)
              (cfg.waveLen v.activeWave.toNat) } := by
      simp [advancePhase, hk]
    rw [eq]
    refine ⟨⟨g.storage.canonical, g.storage.legal, g.storage.specified, g.storage.allocated⟩,
      ⟨e.off_iff, e.active_loaded, e.volume_nonneg, e.volume_le, e.off_volume, e.ticks, e.attack,
        e.decay, e.sustain, e.release⟩,
      ⟨m.vibrato_nonneg, m.vibrato_lt, m.vibratoDelay, m.arpeggio, m.sequencerStep,
        m.sequencerCounter, m.sequencerPending⟩,
      ⟨subtractWhile_nonneg pos hq le_rfl, o.increment_nonneg, o.clock_nonneg, o.clock_lt, o.wave,
        fun _ _ => subtractWhile_lt _ _ pos, fun _ hp => absurd hp (by simp [hk]),
        fun _ hp => absurd hp (by simp [hk])⟩⟩
  | pcmSample =>
    by_cases hl : 1 < v.instrument.loopLength.toNat
    · have eq : advancePhase cfg v =
          loopWrap { v with oscillatorPhase := v.oscillatorPhase + v.phaseIncrement } := by
        simp [advancePhase, hk, hl]
      rw [eq]; exact loopWrap_good g ld hk hl _ hq
    · have eq : advancePhase cfg v =
          endCheck { v with oscillatorPhase := v.oscillatorPhase + v.phaseIncrement } := by
        simp [advancePhase, hk, hl]
      rw [eq]; exact endCheck_good g hk hl _ hq

/-- A good sounding voice reads an address its memory has, and a byte that holds a value
(20_memory.md R62, R63). -/
theorem produceSample_ok {cfg : Config} {v : Voice} (g : v.Good cfg) (ac : v.active = true) :
    ∃ a, produceSample cfg v = .ok a := by
  have o := g.oscillator
  have ld := g.envelope.active_loaded ac
  have fl : 0 ≤ ⌊v.oscillatorPhase⌋ := Int.floor_nonneg.mpr o.phase_nonneg
  cases hk : v.instrument.kind with
  | wavetableSynth =>
    have hi : ⌊v.oscillatorPhase⌋ < (cfg.waveLen v.activeWave.toNat : Int) := by
      rw [Int.floor_lt]; exact_mod_cast o.synth_phase ac hk
    simp [produceSample, hk, readWaveRom, o.wave, fl, hi]
  | pcmSample =>
    have hi : ⌊v.oscillatorPhase⌋ < (v.instrument.sampleLength.toNat : Int) := by
      rw [Int.floor_lt]; exact_mod_cast o.pcm_phase ac hk
    have le := (g.storage.legal ld).sampleLength
    have hm : ⌊v.oscillatorPhase⌋ < (cfg.pcmMaxLen : Int) := by omega
    have lt : ⌊v.oscillatorPhase⌋.toNat < v.instrument.sampleLength.toNat := by omega
    obtain ⟨b, hb⟩ := Option.isSome_iff_exists.mp ((g.storage.specified ld _).mpr lt)
    simp [produceSample, hk, readSampleRam, fl, hm, hb]

/-- An amplitude that was read is in [-1, 1] (R171, R172). -/
theorem produceSample_bounds {cfg : Config} (adm : cfg.Admissible) {v : Voice} {a : ℚ}
    (h : produceSample cfg v = .ok a) : -1 ≤ a ∧ a ≤ 1 := by
  unfold produceSample at h
  split at h
  · unfold readWaveRom at h
    split_ifs at h
    · simp only [Except.ok.injEq] at h
      have pos : (0 : ℚ) < cfg.waveNorm := by exact_mod_cast adm.waveNorm_pos
      have b := abs_le.mp (adm.waveData_bound v.activeWave.toNat ⌊v.oscillatorPhase⌋.toNat)
      have b1 : -(cfg.waveNorm : ℚ) ≤ (cfg.waveData v.activeWave.toNat ⌊v.oscillatorPhase⌋.toNat : ℚ) := by
        exact_mod_cast b.1
      have b2 : (cfg.waveData v.activeWave.toNat ⌊v.oscillatorPhase⌋.toNat : ℚ) ≤ cfg.waveNorm := by
        exact_mod_cast b.2
      rw [← h]
      constructor
      · rw [le_div_iff₀ pos]; linarith
      · rw [div_le_iff₀ pos]; linarith
  · unfold readSampleRam at h
    split_ifs at h
    · split at h
      · rename_i x hx
        split at hx
        · rename_i b _
          simp only [Except.ok.injEq] at h hx
          have lo : -128 ≤ sext8 b := by unfold sext8; have := BitVec.le_toInt b; omega
          have hi : sext8 b < 128 := by unfold sext8; have := @BitVec.toInt_lt 8 b; omega
          have lo' : (-128 : ℚ) ≤ (sext8 b : ℚ) := by exact_mod_cast lo
          have hi' : (sext8 b : ℚ) < 128 := by exact_mod_cast hi
          rw [← h, ← hx]
          constructor
          · rw [le_div_iff₀ (by norm_num [pcmNorm])]; norm_num [pcmNorm]; linarith
          · rw [div_le_iff₀ (by norm_num [pcmNorm])]; norm_num [pcmNorm]; linarith
        · simp at hx
      · simp at h

end Sys2Proof.Laws
end

