-- ==== Sys2Proof/Laws/State.lean ====
section
/-! SUPPORT. One lemma for each field of each update of the state and of a voice slot. -/

namespace Sys2Proof.Laws

open Sys2Proof.Machine

/-! ## Reading and writing a slot -/

theorem handle_eq_iff (u v : Handle) : v.toNat = u.toNat ↔ u = v :=
  ⟨fun h => (BitVec.eq_of_toNat_eq h).symm, fun h => by rw [h]⟩

@[simp] theorem setVoice_voice_self (s : State) (v : Handle) (x : Voice) :
    (s.setVoice v x).voice v = x := by
  simp [State.setVoice, State.voice]

@[simp] theorem setVoice_voice_ne (s : State) (u v : Handle) (x : Voice) (h : u ≠ v) :
    (s.setVoice v x).voice u = s.voice u := by
  have : v.toNat ≠ u.toNat := fun e => h ((handle_eq_iff u v).mp e)
  simp only [State.setVoice, State.voice]
  exact Vector.getElem_set_ne _ _ this

theorem setVoice_voice (s : State) (u v : Handle) (x : Voice) :
    (s.setVoice v x).voice u = if u = v then x else s.voice u := by
  by_cases h : u = v
  · subst h; simp
  · simp [h]

@[simp] theorem setVoice_valid (s : State) (v : Handle) (x : Voice) :
    (s.setVoice v x).valid = s.valid := rfl
@[simp] theorem setVoice_sampleRate (s : State) (v : Handle) (x : Voice) :
    (s.setVoice v x).sampleRate = s.sampleRate := rfl
@[simp] theorem setVoice_unspecifiedDraws (s : State) (v : Handle) (x : Voice) :
    (s.setVoice v x).unspecifiedDraws = s.unspecifiedDraws := rfl
@[simp] theorem setVoice_commands (s : State) (v : Handle) (x : Voice) :
    (s.setVoice v x).commands = s.commands := rfl
@[simp] theorem setVoice_replies (s : State) (v : Handle) (x : Voice) :
    (s.setVoice v x).replies = s.replies := rfl

/-! ## Replies -/

@[simp] theorem replyWith_valid (s : State) (r : Word) (fs : List Frame) :
    (s.replyWith r fs).valid = s.valid := rfl
@[simp] theorem replyWith_sampleRate (s : State) (r : Word) (fs : List Frame) :
    (s.replyWith r fs).sampleRate = s.sampleRate := rfl
@[simp] theorem replyWith_voice (s : State) (r : Word) (fs : List Frame) (v : Handle) :
    (s.replyWith r fs).voice v = s.voice v := rfl
@[simp] theorem replyWith_unspecifiedDraws (s : State) (r : Word) (fs : List Frame) :
    (s.replyWith r fs).unspecifiedDraws = s.unspecifiedDraws := rfl
@[simp] theorem replyWith_commands (s : State) (r : Word) (fs : List Frame) :
    (s.replyWith r fs).commands = s.commands := rfl
@[simp] theorem replyWith_replies (s : State) (r : Word) (fs : List Frame) :
    (s.replyWith r fs).replies = s.replies ++ [⟨r, fs⟩] := rfl

@[simp] theorem respond_valid (s : State) (r : Word) : (s.respond r).valid = s.valid := rfl
@[simp] theorem respond_sampleRate (s : State) (r : Word) :
    (s.respond r).sampleRate = s.sampleRate := rfl
@[simp] theorem respond_voice (s : State) (r : Word) (v : Handle) :
    (s.respond r).voice v = s.voice v := rfl
@[simp] theorem respond_unspecifiedDraws (s : State) (r : Word) :
    (s.respond r).unspecifiedDraws = s.unspecifiedDraws := rfl
@[simp] theorem respond_commands (s : State) (r : Word) :
    (s.respond r).commands = s.commands := rfl
@[simp] theorem respond_replies (s : State) (r : Word) :
    (s.respond r).replies = s.replies ++ [⟨r, []⟩] := rfl

/-! ## Slot resets -/

@[simp] theorem freeAllSlots_voice (s : State) (v : Handle) :
    s.freeAllSlots.voice v = freeSlot (s.unspecifiedDraws + v.toNat) (s.voice v) := by
  simp [State.freeAllSlots, State.voice]
@[simp] theorem freeAllSlots_valid (s : State) : s.freeAllSlots.valid = s.valid := rfl
@[simp] theorem freeAllSlots_sampleRate (s : State) :
    s.freeAllSlots.sampleRate = s.sampleRate := rfl
@[simp] theorem freeAllSlots_unspecifiedDraws (s : State) :
    s.freeAllSlots.unspecifiedDraws = s.unspecifiedDraws + 16 := rfl
@[simp] theorem freeAllSlots_commands (s : State) : s.freeAllSlots.commands = s.commands := rfl
@[simp] theorem freeAllSlots_replies (s : State) : s.freeAllSlots.replies = s.replies := rfl

@[simp] theorem resetSlot_voice_self (s : State) (v : Handle) (a : Bool) :
    (s.resetSlot v a).voice v =
      { voiceReset s.unspecifiedDraws (s.voice v) with allocated := a } :=
  setVoice_voice_self s v _
@[simp] theorem resetSlot_voice_ne (s : State) (u v : Handle) (a : Bool) (h : u ≠ v) :
    (s.resetSlot v a).voice u = s.voice u :=
  setVoice_voice_ne s u v _ h
@[simp] theorem resetSlot_valid (s : State) (v : Handle) (a : Bool) :
    (s.resetSlot v a).valid = s.valid := rfl
@[simp] theorem resetSlot_sampleRate (s : State) (v : Handle) (a : Bool) :
    (s.resetSlot v a).sampleRate = s.sampleRate := rfl
@[simp] theorem resetSlot_unspecifiedDraws (s : State) (v : Handle) (a : Bool) :
    (s.resetSlot v a).unspecifiedDraws = s.unspecifiedDraws + 1 := rfl
@[simp] theorem resetSlot_commands (s : State) (v : Handle) (a : Bool) :
    (s.resetSlot v a).commands = s.commands := rfl
@[simp] theorem resetSlot_replies (s : State) (v : Handle) (a : Bool) :
    (s.resetSlot v a).replies = s.replies := rfl

/-! ## PlayReset and VoiceReset -/

@[simp] theorem playReset_allocated (v : Voice) : (playReset v).allocated = v.allocated := rfl
@[simp] theorem playReset_loaded (v : Voice) : (playReset v).loaded = v.loaded := rfl
@[simp] theorem playReset_instrument (v : Voice) : (playReset v).instrument = v.instrument := rfl
@[simp] theorem playReset_sram (v : Voice) : (playReset v).sram = v.sram := rfl
@[simp] theorem playReset_active (v : Voice) : (playReset v).active = false := rfl
@[simp] theorem playReset_envelopeState (v : Voice) : (playReset v).envelopeState = .off := rfl
@[simp] theorem playReset_envelopeVolume (v : Voice) : (playReset v).envelopeVolume = 0 := rfl
@[simp] theorem playReset_envelopeTicks (v : Voice) : (playReset v).envelopeTicks = 0 := rfl
@[simp] theorem playReset_oscillatorPhase (v : Voice) : (playReset v).oscillatorPhase = 0 := rfl
@[simp] theorem playReset_phaseIncrement (v : Voice) : (playReset v).phaseIncrement = 0 := rfl
@[simp] theorem playReset_tickAccumulator (v : Voice) :
    (playReset v).tickAccumulator = v.tickAccumulator := rfl
@[simp] theorem playReset_vibratoPhase (v : Voice) : (playReset v).vibratoPhase = 0 := rfl
@[simp] theorem playReset_vibratoDelayRemaining (v : Voice) :
    (playReset v).vibratoDelayRemaining = 0 := rfl
@[simp] theorem playReset_arpeggioIndex (v : Voice) : (playReset v).arpeggioIndex = 0 := rfl
@[simp] theorem playReset_sequencerStep (v : Voice) : (playReset v).sequencerStep = 0 := rfl
@[simp] theorem playReset_sequencerTickCounter (v : Voice) :
    (playReset v).sequencerTickCounter = 0 := rfl
@[simp] theorem playReset_activeWave (v : Voice) : (playReset v).activeWave = 0 := rfl
@[simp] theorem playReset_baseNote (v : Voice) : (playReset v).baseNote = 0 := rfl
@[simp] theorem playReset_velocity (v : Voice) : (playReset v).velocity = 0 := rfl

@[simp] theorem voiceReset_allocated (d : Nat) (v : Voice) :
    (voiceReset d v).allocated = v.allocated := rfl
@[simp] theorem voiceReset_loaded (d : Nat) (v : Voice) : (voiceReset d v).loaded = false := rfl
@[simp] theorem voiceReset_instrument (d : Nat) (v : Voice) :
    (voiceReset d v).instrument = Instrument.unspecified d := rfl
@[simp] theorem voiceReset_sram (d : Nat) (v : Voice) : (voiceReset d v).sram = [] := rfl
@[simp] theorem voiceReset_active (d : Nat) (v : Voice) : (voiceReset d v).active = false := rfl
@[simp] theorem voiceReset_envelopeState (d : Nat) (v : Voice) :
    (voiceReset d v).envelopeState = .off := rfl
@[simp] theorem voiceReset_envelopeVolume (d : Nat) (v : Voice) :
    (voiceReset d v).envelopeVolume = 0 := rfl
@[simp] theorem voiceReset_envelopeTicks (d : Nat) (v : Voice) :
    (voiceReset d v).envelopeTicks = 0 := rfl
@[simp] theorem voiceReset_oscillatorPhase (d : Nat) (v : Voice) :
    (voiceReset d v).oscillatorPhase = 0 := rfl
@[simp] theorem voiceReset_phaseIncrement (d : Nat) (v : Voice) :
    (voiceReset d v).phaseIncrement = 0 := rfl
@[simp] theorem voiceReset_tickAccumulator (d : Nat) (v : Voice) :
    (voiceReset d v).tickAccumulator = 0 := rfl
@[simp] theorem voiceReset_vibratoPhase (d : Nat) (v : Voice) :
    (voiceReset d v).vibratoPhase = 0 := rfl
@[simp] theorem voiceReset_vibratoDelayRemaining (d : Nat) (v : Voice) :
    (voiceReset d v).vibratoDelayRemaining = 0 := rfl
@[simp] theorem voiceReset_arpeggioIndex (d : Nat) (v : Voice) :
    (voiceReset d v).arpeggioIndex = 0 := rfl
@[simp] theorem voiceReset_sequencerStep (d : Nat) (v : Voice) :
    (voiceReset d v).sequencerStep = 0 := rfl
@[simp] theorem voiceReset_sequencerTickCounter (d : Nat) (v : Voice) :
    (voiceReset d v).sequencerTickCounter = 0 := rfl
@[simp] theorem voiceReset_activeWave (d : Nat) (v : Voice) :
    (voiceReset d v).activeWave = 0 := rfl
@[simp] theorem voiceReset_baseNote (d : Nat) (v : Voice) : (voiceReset d v).baseNote = 0 := rfl
@[simp] theorem voiceReset_velocity (d : Nat) (v : Voice) : (voiceReset d v).velocity = 0 := rfl

/-! ## ForceOff lives with the envelope: Laws/Envelope.lean -/

@[simp] theorem reset_voice (v : Handle) : State.reset.voice v = Voice.atReset := by
  simp [State.reset, State.voice]

end Sys2Proof.Laws
end

