-- ==== Sys2Proof/Laws/Render.lean ====
section
/-! SUPPORT. RENDER's loop: its frame, that it never faults from a good voice, and the equations by which
it is taken apart. -/

namespace Sys2Proof.Laws

open Sys2Proof.Machine

/-- What no part of RENDER writes: storage, allocation, note and velocity. -/
structure RenderFrame (v w : Voice) : Prop where
  allocated : w.allocated = v.allocated
  loaded : w.loaded = v.loaded
  instrument : w.instrument = v.instrument
  sram : w.sram = v.sram
  baseNote : w.baseNote = v.baseNote
  velocity : w.velocity = v.velocity

theorem RenderFrame.refl (v : Voice) : RenderFrame v v := ⟨rfl, rfl, rfl, rfl, rfl, rfl⟩

theorem RenderFrame.trans {u v w : Voice} (h : RenderFrame u v) (k : RenderFrame v w) :
    RenderFrame u w :=
  ⟨k.allocated.trans h.allocated, k.loaded.trans h.loaded, k.instrument.trans h.instrument,
    k.sram.trans h.sram, k.baseNote.trans h.baseNote, k.velocity.trans h.velocity⟩

theorem EnvFrame.render {v w : Voice} (h : EnvFrame v w) : RenderFrame v w :=
  ⟨h.allocated, h.loaded, h.instrument, h.sram, h.baseNote, h.velocity⟩
theorem ModFrame.render {v w : Voice} (h : ModFrame v w) : RenderFrame v w :=
  ⟨h.allocated, h.loaded, h.instrument, h.sram, h.baseNote, h.velocity⟩
theorem OscFrame.render {v w : Voice} (h : OscFrame v w) : RenderFrame v w :=
  ⟨h.allocated, h.loaded, h.instrument, h.sram, h.baseNote, h.velocity⟩

theorem tick_frame (cfg : Config) (rate : Nat) (v : Voice) : RenderFrame v (tick cfg rate v) := by
  unfold tick; dsimp only
  split
  · exact (envTick_frame v).render
  · exact (envTick_frame v).render.trans
      ((vibTick_frame cfg _).trans ((arpTick_frame _).trans
        ((seqTick_frame cfg _).trans (recompute_frame cfg rate _)))).render

theorem schedule_frame (cfg : Config) (rate : Nat) (v : Voice) :
    RenderFrame v (schedule cfg rate v) := by
  unfold schedule; dsimp only
  split
  · have h := tick_frame cfg rate
      { v with tickAccumulator := v.tickAccumulator + 1 / rate - 1 / tickHz }
    exact ⟨h.allocated, h.loaded, h.instrument, h.sram, h.baseNote, h.velocity⟩
  · exact ⟨rfl, rfl, rfl, rfl, rfl, rfl⟩

/-- All that one sample of an active voice can do (R190). -/
theorem renderSample_cases {cfg : Config} {rate : Nat} {v w : Voice} {o : Option Frame}
    (h : renderSample cfg rate v = .ok (w, o)) :
    ((schedule cfg rate v).active = false ∧ o = none ∧ w = schedule cfg rate v) ∨
    (∃ a, (schedule cfg rate v).active = true ∧ produceSample cfg (schedule cfg rate v) = .ok a ∧
      o = some (scaledFrame (schedule cfg rate v) a) ∧
      w = advancePhase cfg (schedule cfg rate v)) := by
  unfold renderSample at h; dsimp only at h
  split at h
  · rename_i ha
    split at h
    · rename_i a hp
      simp only [Except.ok.injEq, Prod.mk.injEq] at h
      exact .inr ⟨a, ha, hp, h.2.symm, h.1.symm⟩
    · simp at h
  · rename_i ha
    simp only [Except.ok.injEq, Prod.mk.injEq] at h
    exact .inl ⟨by simpa using ha, h.2.symm, h.1.symm⟩

theorem renderSample_frame {cfg : Config} {rate : Nat} {v w : Voice} {o : Option Frame}
    (h : renderSample cfg rate v = .ok (w, o)) : RenderFrame v w := by
  rcases renderSample_cases h with ⟨_, _, e⟩ | ⟨_, _, _, _, e⟩
  · rw [e]; exact schedule_frame cfg rate v
  · rw [e]; exact (schedule_frame cfg rate v).trans (advancePhase_frame cfg _).render

/-! ## The loop's equations -/

@[simp] theorem renderLoop_zero (cfg : Config) (rate : Nat) (v : Voice) :
    renderLoop cfg rate 0 v = .ok (v, []) := rfl

/-- An inactive voice stays as it is and gives silence (R194). -/
theorem renderLoop_inactive {cfg : Config} {rate : Nat} {v : Voice} (h : v.active = false) :
    ∀ n, renderLoop cfg rate n v = .ok (v, List.replicate n Frame.silence)
  | 0 => rfl
  | n + 1 => by simp [renderLoop, h]

/-- All that a non-empty loop of an active voice can do. -/
theorem renderLoop_succ_cases {cfg : Config} {rate n : Nat} {v u : Voice} {fs : List Frame}
    (ac : v.active = true) (h : renderLoop cfg rate (n + 1) v = .ok (u, fs)) :
    (renderSample cfg rate v = .ok (u, none) ∧ fs = List.replicate (n + 1) Frame.silence) ∨
    (∃ w f gs, renderSample cfg rate v = .ok (w, some f) ∧ renderLoop cfg rate n w = .ok (u, gs) ∧
      fs = f :: gs) := by
  simp only [renderLoop, ac, if_true] at h
  split at h
  · simp at h
  · rename_i w hs
    simp only [Except.ok.injEq, Prod.mk.injEq] at h
    exact .inl ⟨h.1 ▸ hs, h.2.symm⟩
  · rename_i w f hs
    split at h
    · simp at h
    · rename_i u' gs hl
      simp only [Except.ok.injEq, Prod.mk.injEq] at h
      exact .inr ⟨w, f, gs, hs, h.1 ▸ hl, h.2.symm⟩

theorem renderLoop_frame {cfg : Config} {rate : Nat} :
    ∀ {n : Nat} {v u : Voice} {fs : List Frame}, renderLoop cfg rate n v = .ok (u, fs) →
      RenderFrame v u
  | 0, v, u, fs, h => by
    simp only [renderLoop, Except.ok.injEq, Prod.mk.injEq] at h
    rw [← h.1]; exact RenderFrame.refl v
  | n + 1, v, u, fs, h => by
    cases ac : v.active with
    | false =>
      rw [renderLoop_inactive ac] at h
      simp only [Except.ok.injEq, Prod.mk.injEq] at h
      rw [← h.1]; exact RenderFrame.refl v
    | true =>
      rcases renderLoop_succ_cases ac h with ⟨hs, _⟩ | ⟨w, f, gs, hs, hl, _⟩
      · exact renderSample_frame hs
      · exact (renderSample_frame hs).trans (renderLoop_frame hl)

/-! ## Good voices -/

theorem tick_good {cfg : Config} (adm : cfg.Admissible) (rate : Nat) {v : Voice} (g : v.Good cfg) :
    (tick cfg rate v).Good cfg := by
  have fr := envTick_frame v
  have ge : (envTick v).EnvelopeGood := envTick_good g.envelope
  have ac := @envTick_active v
  have m := g.modulation
  have o := g.oscillator
  have base : (envTick v).Good cfg := by
    refine ⟨⟨?_, ?_, ?_, ?_⟩, ge, ⟨?_, ?_, ?_, ?_, ?_, ?_, ?_⟩, ⟨?_, ?_, ?_, ?_, ?_, ?_, ?_, ?_⟩⟩
    · rw [fr.sram]; exact g.storage.canonical
    · rw [fr.loaded, fr.instrument]; exact g.storage.legal
    · rw [fr.loaded, fr.instrument, fr.sram]; exact g.storage.specified
    · rw [fr.loaded, fr.allocated]; exact g.storage.allocated
    · rw [fr.vibratoPhase]; exact m.vibrato_nonneg
    · rw [fr.vibratoPhase]; exact m.vibrato_lt
    · rw [fr.vibratoDelayRemaining]; exact m.vibratoDelay
    · rw [fr.instrument, fr.arpeggioIndex]; exact m.arpeggio
    · rw [fr.instrument, fr.sequencerStep]; exact m.sequencerStep
    · rw [fr.sequencerTickCounter]; exact m.sequencerCounter
    · rw [fr.instrument, fr.sequencerTickCounter]; exact m.sequencerPending
    · rw [fr.oscillatorPhase]; exact o.phase_nonneg
    · rw [fr.phaseIncrement]; exact o.increment_nonneg
    · rw [fr.tickAccumulator]; exact o.clock_nonneg
    · rw [fr.tickAccumulator]; exact o.clock_lt
    · rw [fr.activeWave]; exact o.wave
    · rw [fr.instrument, fr.oscillatorPhase, fr.activeWave]
      exact fun h hk => o.synth_phase (ac h) hk
    · rw [fr.instrument, fr.oscillatorPhase]; exact fun h hk => o.pcm_phase (ac h) hk
    · rw [fr.instrument, fr.oscillatorPhase]; exact fun h hk => o.pcm_loop (ac h) hk
  unfold tick; dsimp only
  split
  · exact base
  · rename_i ho
    have ha : (envTick v).active = true := by
      cases hb : (envTick v).active with
      | true => rfl
      | false => exact absurd (ge.off_iff.mpr hb) ho
    have ld : (envTick v).loaded = true := ge.active_loaded ha
    have g1 := vibTick_good base
    have g2 := arpTick_good g1
    have ld2 : (arpTick (vibTick cfg (envTick v))).loaded = true := by
      rw [(arpTick_frame _).loaded, (vibTick_frame cfg _).loaded]; exact ld
    exact recompute_good adm rate (seqTick_good adm g2 ld2)

/-- Steps 1 and 2 of a sample keep a good voice good, at a legal rate (R192). -/
theorem schedule_good {cfg : Config} (adm : cfg.Admissible) {rate : Nat} (hr : tickHz ≤ rate)
    {v : Voice} (g : v.Good cfg) : (schedule cfg rate v).Good cfg := by
  have o := g.oscillator
  have hr' : (50 : ℚ) ≤ rate := by exact_mod_cast hr
  have rp : (0 : ℚ) < 1 / rate := by positivity
  have rle : (1 : ℚ) / rate ≤ 1 / 50 := one_div_le_one_div_of_le (by norm_num) hr'
  have set : ∀ q : ℚ, 0 ≤ q → q < 1 / (tickHz : ℚ) →
      Voice.Good cfg { v with tickAccumulator := q } := by
    intro q h0 h1
    have e := g.envelope
    have m := g.modulation
    exact ⟨⟨g.storage.canonical, g.storage.legal, g.storage.specified, g.storage.allocated⟩,
      ⟨e.off_iff, e.active_loaded, e.volume_nonneg, e.volume_le, e.off_volume, e.ticks, e.attack,
        e.decay, e.sustain, e.release⟩,
      ⟨m.vibrato_nonneg, m.vibrato_lt, m.vibratoDelay, m.arpeggio, m.sequencerStep,
        m.sequencerCounter, m.sequencerPending⟩,
      ⟨o.phase_nonneg, o.increment_nonneg, h0, h1, o.wave, o.synth_phase, o.pcm_phase, o.pcm_loop⟩⟩
  have c0 := o.clock_nonneg
  have c1 := o.clock_lt
  unfold schedule; dsimp only
  split
  · rename_i h
    refine tick_good adm rate (set _ ?_ ?_)
    · linarith
    · simp only [tickHz] at *; push_cast at *; linarith
  · rename_i h
    exact set _ (by linarith) (not_le.mp h)

/-- A sample of a good sounding voice is rendered, and leaves a good voice. -/
theorem renderSample_good {cfg : Config} (adm : cfg.Admissible) {rate : Nat} (hr : tickHz ≤ rate)
    {v : Voice} (g : v.Good cfg) :
    ∃ w o, renderSample cfg rate v = .ok (w, o) ∧ w.Good cfg := by
  have gs := schedule_good adm hr g
  unfold renderSample; dsimp only
  cases ac : (schedule cfg rate v).active with
  | false => exact ⟨schedule cfg rate v, none, by simp, gs⟩
  | true =>
    obtain ⟨a, ha⟩ := produceSample_ok gs ac
    exact ⟨advancePhase cfg (schedule cfg rate v), some (scaledFrame (schedule cfg rate v) a),
      by simp [ha], advancePhase_good adm gs (gs.envelope.active_loaded ac)⟩

/-- The loop of RENDER from a good voice completes, gives as many frames as asked for, and leaves a good
voice (R190, R194). -/
theorem renderLoop_good {cfg : Config} (adm : cfg.Admissible) {rate : Nat} (hr : tickHz ≤ rate) :
    ∀ (n : Nat) {v : Voice}, v.Good cfg →
      ∃ w fs, renderLoop cfg rate n v = .ok (w, fs) ∧ fs.length = n ∧ w.Good cfg
  | 0, v, g => ⟨v, [], rfl, rfl, g⟩
  | n + 1, v, g => by
    cases ac : v.active with
    | false => exact ⟨v, _, renderLoop_inactive ac (n + 1), by simp, g⟩
    | true =>
      obtain ⟨w, o, hs, gw⟩ := renderSample_good adm hr g
      cases o with
      | none =>
        exact ⟨w, List.replicate (n + 1) Frame.silence, by simp [renderLoop, ac, hs], by simp, gw⟩
      | some f =>
        obtain ⟨u, fs, hl, len, gu⟩ := renderLoop_good adm hr n gw
        exact ⟨u, f :: fs, by simp [renderLoop, ac, hs, hl], by simp [len], gu⟩

end Sys2Proof.Laws
end

