-- ==== Sys2Proof/Laws/Commands.lean ====
section
/-! SUPPORT. The shared operations of the host commands: what a parse gives, and that reset, load, note and
parameter operations keep a good voice good. -/

namespace Sys2Proof.Laws

open Sys2Proof.Machine

/-! ## Clamps and fields -/

theorem clampByte_toNat {b hi : Nat} (h : hi ≤ 255) : (clampByte b hi).toNat = min b hi := by
  unfold clampByte
  rw [BitVec.toNat_ofNat]
  exact Nat.mod_eq_of_lt (by omega)

theorem clampByte_le {b hi : Nat} (h : hi ≤ 255) : (clampByte b hi).toNat ≤ hi := by
  rw [clampByte_toNat h]; exact Nat.min_le_right _ _

/-- The 32-bit field is the little-endian sum of its four bytes (20_memory.md R66). -/
theorem le32_toNat (p : List Byte) (o : Nat) :
    (le32 p o).toNat = (payloadByte p o).toNat + 2 ^ 8 * (payloadByte p (o + 1)).toNat
      + 2 ^ 16 * (payloadByte p (o + 2)).toNat + 2 ^ 24 * (payloadByte p (o + 3)).toNat := by
  have h0 := (payloadByte p o).isLt
  have h1 := (payloadByte p (o + 1)).isLt
  have h2 := (payloadByte p (o + 2)).isLt
  have h3 := (payloadByte p (o + 3)).isLt
  unfold le32
  rw [BitVec.toNat_ofNat]
  exact Nat.mod_eq_of_lt (by omega)

/-- All that TruncateLoop can do (40_load_instrument.md R117). -/
theorem truncateLoop_spec (n ls ll : Nat) :
    (truncateLoop n ls ll).1 = ls ∧ (truncateLoop n ls ll).2 ≤ ll ∧
      (0 < (truncateLoop n ls ll).2 → ls + (truncateLoop n ls ll).2 ≤ n) := by
  unfold truncateLoop
  split_ifs <;> (refine ⟨rfl, ?_, ?_⟩ <;> dsimp only <;> omega)

/-! ## What a parse gives -/

theorem synthInstrument_legal {cfg : Config} (adm : cfg.Admissible) (p : List Byte) :
    (synthInstrument cfg p).Legal cfg := by
  have h1 := adm.nwaves_pos
  have h2 := adm.nwaves_le
  have lw : ∀ b : Nat, (clampByte b (cfg.nwaves - 1)).toNat < cfg.nwaves := fun b => by
    have := @clampByte_le b (cfg.nwaves - 1) (by omega); omega
  have l16 : ∀ b : Nat, (clampByte b tableMax).toNat ≤ tableMax := fun b =>
    clampByte_le (by norm_num [tableMax])
  have l64 : ∀ b : Nat, (clampByte b maxVolume).toNat ≤ maxVolume := fun b =>
    clampByte_le (by norm_num [maxVolume])
  refine
    { initialWave := lw _
      seqWave := fun k => by simp [synthInstrument]; exact lw _
      sequencerLength := l16 _
      arpeggioLength := l16 _
      attackLevel := l64 _
      decayLevel := ?_
      sustainLevel := l64 _
      pcmVolume := by simp [synthInstrument]
      sampleLength := by simp [synthInstrument]
      loopInside := fun h => absurd h (by simp [synthInstrument])
      synthNeutral := fun _ => ⟨rfl, rfl, rfl, rfl, rfl⟩
      pcmNeutral := fun h => absurd h (by simp [synthInstrument]) }
  show (clampByte _ (min maxVolume (min _ maxVolume))).toNat ≤ (clampByte _ maxVolume).toNat
  rw [clampByte_toNat (by simp only [maxVolume]; omega), clampByte_toNat (by norm_num [maxVolume])]
  omega

theorem pcmInstrument_loop (p : List Byte) :
    (pcmInstrument p).loopStart.toNat = (le32 p 8).toNat ∧
    (pcmInstrument p).loopLength.toNat =
      (truncateLoop (le32 p 4).toNat (le32 p 8).toNat (le32 p 12).toNat).2 := by
  have t := truncateLoop_spec (le32 p 4).toNat (le32 p 8).toNat (le32 p 12).toNat
  have a := (le32 p 8).isLt
  have b := (le32 p 12).isLt
  constructor
  · show (BitVec.ofNat 32 _).toNat = _
    rw [BitVec.toNat_ofNat, t.1]
    exact Nat.mod_eq_of_lt a
  · show (BitVec.ofNat 32 _).toNat = _
    rw [BitVec.toNat_ofNat]
    exact Nat.mod_eq_of_lt (lt_of_le_of_lt t.2.1 b)

theorem pcmInstrument_legal {cfg : Config} (adm : cfg.Admissible) {p : List Byte}
    (h : (le32 p 4).toNat ≤ cfg.pcmMaxLen) : (pcmInstrument p).Legal cfg := by
  have h1 := adm.nwaves_pos
  have l64 : (clampByte (payloadByte p 1).toNat maxVolume).toNat ≤ maxVolume :=
    clampByte_le (by norm_num [maxVolume])
  have t := truncateLoop_spec (le32 p 4).toNat (le32 p 8).toNat (le32 p 12).toNat
  have lp := pcmInstrument_loop p
  refine
    { initialWave := by simp [pcmInstrument]; omega
      seqWave := fun k => by simp [pcmInstrument]; omega
      sequencerLength := by simp [pcmInstrument]
      arpeggioLength := by simp [pcmInstrument]
      attackLevel := l64
      decayLevel := le_rfl
      sustainLevel := l64
      pcmVolume := l64
      sampleLength := h
      loopInside := fun hl => ?_
      synthNeutral := fun hk => absurd hk (by simp [pcmInstrument])
      pcmNeutral := fun _ =>
        ⟨rfl, rfl, rfl, rfl, rfl, rfl, rfl, rfl, rfl, rfl, rfl, rfl, rfl, rfl, rfl, rfl⟩ }
  unfold loopEnd
  rw [lp.2] at hl
  rw [lp.1, lp.2]
  exact t.2.2 hl

/-- All that a successful parse can be (40_load_instrument.md R110). -/
theorem parse_cases {cfg : Config} {p : List Byte} {x : Instrument} {m : Memory}
    (h : parse cfg p = .ok (x, m)) :
    ((payloadByte p 0).toNat = 0 ∧ synthBlobMin ≤ p.length ∧ x = synthInstrument cfg p ∧
      m = Memory.unspecified) ∨
    ((payloadByte p 0).toNat = 1 ∧ pcmBlobMin ≤ p.length ∧ (le32 p 4).toNat ≤ cfg.pcmMaxLen ∧
      (le32 p 4).toNat ≤ p.length - pcmBlobMin ∧ x = pcmInstrument p ∧
      m = Memory.load (pcmSamples p)) := by
  unfold parse at h
  split at h
  · simp at h
  · split at h
    · rename_i hk
      split at h
      · simp at h
      · simp only [Except.ok.injEq, Prod.mk.injEq] at h
        exact .inl ⟨hk, by omega, h.1.symm, h.2.symm⟩
    · rename_i hk
      split_ifs at h
      simp only [Except.ok.injEq, Prod.mk.injEq] at h
      exact .inr ⟨hk, by omega, by omega, by omega, h.1.symm, h.2.symm⟩
    · simp at h

/-- What a parse gives is legal, with a value in exactly the bytes below the sample length. -/
theorem parse_good {cfg : Config} (adm : cfg.Admissible) {p : List Byte} {x : Instrument}
    {m : Memory} (h : parse cfg p = .ok (x, m)) :
    x.Legal cfg ∧ Memory.wf m = true ∧
      ∀ a, (Memory.read? m a).isSome = true ↔ a < x.sampleLength.toNat := by
  rcases parse_cases h with ⟨_, _, hx, hm⟩ | ⟨_, _, hn, hl, hx, hm⟩
  · subst hx hm
    exact ⟨synthInstrument_legal adm p, rfl, fun a => by simp [synthInstrument]⟩
  · subst hx hm
    refine ⟨pcmInstrument_legal adm hn, load_wf _, fun a => ?_⟩
    have hs : (pcmInstrument p).sampleLength = le32 p 4 := rfl
    have len : (pcmSamples p).length = (le32 p 4).toNat := by
      unfold pcmSamples
      rw [List.length_take, List.length_drop]
      exact Nat.min_eq_left hl
    rw [load_read?, hs, ← len]
    simp

/-! ## Good voices -/

theorem activeWave_zero {cfg : Config} (adm : cfg.Admissible) : (0 : Byte).toNat < cfg.nwaves := by
  have := adm.nwaves_pos
  simp; omega

/-- PlayReset leaves a good voice, whatever the playback state was, when its storage and its tick
accumulator are good. -/
theorem playReset_good {cfg : Config} (adm : cfg.Admissible) {v : Voice}
    (st : v.StorageGood cfg) (c0 : 0 ≤ v.tickAccumulator)
    (c1 : v.tickAccumulator < 1 / (tickHz : ℚ)) : (playReset v).Good cfg := by
  refine ⟨⟨st.canonical, st.legal, st.specified, st.allocated⟩, ?_, ?_, ?_⟩
  · constructor <;> simp [playReset, maxVolume]
  · exact ⟨le_rfl, one_pos, Nat.zero_le _, fun h => h, fun h => h, Nat.zero_le _, fun h => h⟩
  · exact ⟨le_rfl, le_rfl, c0, c1, activeWave_zero adm, fun h => absurd h (by simp),
      fun h => absurd h (by simp), fun h => absurd h (by simp)⟩

/-- VoiceReset leaves a good voice, allocated or not (R44). -/
theorem voiceReset_good {cfg : Config} (adm : cfg.Admissible) (d : Nat) (v : Voice) (a : Bool) :
    Voice.Good cfg { voiceReset d v with allocated := a } := by
  have e : { voiceReset d v with allocated := a } =
      playReset { voiceReset d v with allocated := a } := rfl
  rw [e]
  refine playReset_good adm ⟨rfl, fun h => absurd h (by simp), fun h => absurd h (by simp),
    fun h => absurd h (by simp)⟩ le_rfl ?_
  norm_num [tickHz, voiceReset]

theorem atReset_good {cfg : Config} (adm : cfg.Admissible) : Voice.atReset.Good cfg := by
  have e : Voice.atReset = playReset Voice.atReset := rfl
  rw [e]
  refine playReset_good adm ⟨rfl, fun h => absurd h (by simp [Voice.atReset]),
    fun h => absurd h (by simp [Voice.atReset]), fun h => absurd h (by simp [Voice.atReset])⟩ le_rfl ?_
  norm_num [tickHz, Voice.atReset]

/-- A load leaves a good voice (40_load_instrument.md R119). -/
theorem loadVoice_good {cfg : Config} (adm : cfg.Admissible) {p : List Byte} {x : Instrument}
    {m : Memory} (h : parse cfg p = .ok (x, m)) {v : Voice} (g : v.Good cfg)
    (al : v.allocated = true) : (loadVoice x m v).Good cfg := by
  obtain ⟨legal, wf, spec⟩ := parse_good adm h
  exact playReset_good adm ⟨wf, fun _ => legal, fun _ => spec, fun _ => al⟩ g.oscillator.clock_nonneg
    g.oscillator.clock_lt

/-- Entering a phase keeps the volume in its range when the levels are legal. -/
theorem enterAttack_volume {cfg : Config} {v : Voice} (lg : v.instrument.Legal cfg)
    (h0 : 0 ≤ v.envelopeVolume) (h1 : v.envelopeVolume ≤ maxVolume) :
    0 ≤ (enterAttack v).envelopeVolume ∧ (enterAttack v).envelopeVolume ≤ maxVolume := by
  have ha := level_le lg.attackLevel
  have hs := level_le lg.sustainLevel
  have na := level_nonneg v.instrument.attackLevel
  have ns := level_nonneg v.instrument.sustainLevel
  unfold enterAttack enterDecay enterSustain; dsimp only
  split_ifs
  · exact ⟨ns, hs⟩
  · exact ⟨na, ha⟩
  · exact ⟨h0, h1⟩

theorem enterAttack_state (v : Voice) :
    (enterAttack v).envelopeState ≠ .off ∧ (enterAttack v).active = v.active := by
  unfold enterAttack enterDecay enterSustain; dsimp only
  split_ifs <;> simp

/-- NOTE_ON leaves a good voice (45_host_commands.md R216). -/
theorem startNote_good {cfg : Config} (adm : cfg.Admissible) (rate : Nat) (note vel : SevenBit)
    {v : Voice} (g : v.Good cfg) (ld : v.loaded = true) :
    (startNote cfg rate note vel v).Good cfg := by
  have lg := g.storage.legal ld
  have o := g.oscillator
  let w := noteStart note vel v
  have hw : w.instrument = v.instrument := rfl
  have fr := enterAttack_frame w
  have r : EnvReady (enterAttack w) := enterAttack_ready rfl
  have vol := @enterAttack_volume cfg w lg le_rfl (by show (0 : ℚ) ≤ _; norm_num [maxVolume])
  have st := enterAttack_state w
  have storage : (enterAttack w).StorageGood cfg := by
    constructor
    · rw [fr.sram]; exact g.storage.canonical
    · rw [fr.loaded, fr.instrument]; exact g.storage.legal
    · rw [fr.loaded, fr.instrument, fr.sram]; exact g.storage.specified
    · rw [fr.loaded, fr.allocated]; exact g.storage.allocated
  have modulation : (enterAttack w).ModulationGood := by
    have hd : v.instrument.vibratoDelay.toNat ≤ 255 := by
      have := v.instrument.vibratoDelay.isLt; omega
    constructor
    · rw [fr.vibratoPhase]; exact le_rfl
    · rw [fr.vibratoPhase]; exact one_pos
    · rw [fr.vibratoDelayRemaining]; exact hd
    · rw [fr.instrument, fr.arpeggioIndex]; exact fun h => h
    · rw [fr.instrument, fr.sequencerStep]; exact fun h => h
    · rw [fr.sequencerTickCounter]; exact Nat.zero_le _
    · rw [fr.instrument, fr.sequencerTickCounter]; exact fun h => h
  have wave : (enterAttack w).activeWave.toNat < cfg.nwaves := by
    rw [fr.activeWave]; exact lg.initialWave
  unfold startNote
  refine recompute_good adm rate ?_
  unfold endIfEmpty
  split
  · refine ⟨⟨storage.canonical, storage.legal, storage.specified, storage.allocated⟩, ?_,
      ⟨modulation.vibrato_nonneg, modulation.vibrato_lt, modulation.vibratoDelay,
        modulation.arpeggio, modulation.sequencerStep, modulation.sequencerCounter,
        modulation.sequencerPending⟩, ?_⟩
    · have := r.ticks
      constructor <;> simp [forceOff, maxVolume]
      exact this
    · refine ⟨?_, ?_, ?_, ?_, wave, fun h => absurd h (by simp [forceOff]),
        fun h => absurd h (by simp [forceOff]), fun h => absurd h (by simp [forceOff])⟩
      · show 0 ≤ (enterAttack w).oscillatorPhase
        rw [fr.oscillatorPhase]; exact le_rfl
      · show 0 ≤ (enterAttack w).phaseIncrement
        rw [fr.phaseIncrement]; exact o.increment_nonneg
      · show 0 ≤ (enterAttack w).tickAccumulator
        rw [fr.tickAccumulator]; exact o.clock_nonneg
      · show (enterAttack w).tickAccumulator < _
        rw [fr.tickAccumulator]; exact o.clock_lt
  · rename_i ne
    refine ⟨storage, ⟨r.off_iff, fun _ => ?_, vol.1, vol.2, r.off_volume, r.ticks, r.attack, r.decay,
      r.sustain, r.release⟩, modulation, ⟨?_, ?_, ?_, ?_, wave, fun _ _ => ?_, fun _ hk => ?_,
        fun _ _ hl => ?_⟩⟩
    · rw [fr.loaded]; exact ld
    · rw [fr.oscillatorPhase]; exact le_rfl
    · rw [fr.phaseIncrement]; exact o.increment_nonneg
    · rw [fr.tickAccumulator]; exact o.clock_nonneg
    · rw [fr.tickAccumulator]; exact o.clock_lt
    · rw [fr.oscillatorPhase]
      show (0 : ℚ) < _
      exact_mod_cast adm.waveLen_pos _
    · rw [fr.oscillatorPhase]
      show (0 : ℚ) < _
      have : (enterAttack w).instrument.sampleLength ≠ 0 := fun h0 => ne ⟨hk, h0⟩
      have pos : 0 < (enterAttack w).instrument.sampleLength.toNat := by
        rw [Ne, ← BitVec.toNat_inj] at this
        simp at this
        omega
      exact_mod_cast pos
    · rw [fr.oscillatorPhase]
      show (0 : ℚ) < _
      unfold loopEnd; push_cast
      have : (1 : ℚ) < (enterAttack w).instrument.loopLength.toNat := by exact_mod_cast hl
      positivity

/-- NOTE_OFF leaves a good voice (R217). -/
theorem enterRelease_good {cfg : Config} {v : Voice} (g : v.Good cfg)
    (h : v.envelopeState.releasable = true) : (enterRelease v).Good cfg := by
  have ne : v.envelopeState ≠ .off := fun h0 => by
    simp [h0, EnvelopeState.releasable] at h
  have ac := active_of_state (EnvReady.of_good g.envelope) ne
  have r := enterRelease_ready ac
  have fr := enterRelease_frame v
  have e := g.envelope
  have m := g.modulation
  have o := g.oscillator
  have vol : 0 ≤ (enterRelease v).envelopeVolume ∧ (enterRelease v).envelopeVolume ≤ maxVolume := by
    unfold enterRelease; dsimp only
    split_ifs
    · exact ⟨le_rfl, by show (0 : ℚ) ≤ _; norm_num [maxVolume]⟩
    · exact ⟨e.volume_nonneg, e.volume_le⟩
  refine ⟨⟨?_, ?_, ?_, ?_⟩, ⟨r.off_iff, fun _ => ?_, vol.1, vol.2, r.off_volume, r.ticks, r.attack,
    r.decay, r.sustain, r.release⟩, ⟨?_, ?_, ?_, ?_, ?_, ?_, ?_⟩, ⟨?_, ?_, ?_, ?_, ?_, ?_, ?_, ?_⟩⟩
  · rw [fr.sram]; exact g.storage.canonical
  · rw [fr.loaded, fr.instrument]; exact g.storage.legal
  · rw [fr.loaded, fr.instrument, fr.sram]; exact g.storage.specified
  · rw [fr.loaded, fr.allocated]; exact g.storage.allocated
  · rw [fr.loaded]; exact e.active_loaded ac
  · rw [fr.vibratoPhase]; exact m.vibrato_nonneg
  · rw [fr.vibratoPhase]; exact m.vibrato_lt
  · rw [fr.vibratoDelayRemaining]; exact m.vibratoDelay
  · rw [fr.instrument, fr.arpeggioIndex]; exact m.arpeggio
  · rw [fr.instrument, fr.sequencerStep]; exact m.sequencerStep
  · rw [fr.sequencerTickCounter]; exact m.sequencerCounter
  · rw [fr.instrument, fr.sequencerTickCounter]; exact m.sequencerPending
  · rw [fr.oscillatorPhase]; exact o.phase_nonneg
  · rw [fr.phaseIncrement]; exact o.increment_nonneg
  · rw [fr.tickAccumulator]; exact o.clock_nonneg
  · rw [fr.tickAccumulator]; exact o.clock_lt
  · rw [fr.activeWave]; exact o.wave
  · rw [fr.instrument, fr.oscillatorPhase, fr.activeWave]; exact fun _ hk => o.synth_phase ac hk
  · rw [fr.instrument, fr.oscillatorPhase]; exact fun _ hk => o.pcm_phase ac hk
  · rw [fr.instrument, fr.oscillatorPhase]; exact fun _ hk => o.pcm_loop ac hk

/-! ## SET_PARAM -/

/-- All that a parameter write can do (45_host_commands.md R221). -/
theorem writeParam_cases (x : Instrument) (index : Byte) (value : BitVec 16) :
    writeParam x index value = x ∨
    (x.kind = .wavetableSynth ∧ ∃ d s p, writeParam x index value =
      { x with vibratoDelay := d, vibratoSpeed := s, vibratoDepth := p }) ∨
    (x.kind = .pcmSample ∧ ∃ l : Byte, l.toNat ≤ maxVolume ∧ writeParam x index value =
      { x with pcmVolume := l, attackLevel := l, decayLevel := l, sustainLevel := l }) := by
  unfold writeParam
  split
  · rename_i hk
    split_ifs
    · exact .inr (.inl ⟨hk, _, x.vibratoSpeed, x.vibratoDepth, rfl⟩)
    · exact .inr (.inl ⟨hk, x.vibratoDelay, _, x.vibratoDepth, rfl⟩)
    · exact .inr (.inl ⟨hk, x.vibratoDelay, x.vibratoSpeed, _, rfl⟩)
    · exact .inl rfl
  · rename_i hk
    split_ifs
    · exact .inr (.inr ⟨hk, _, clampByte_le (by norm_num [maxVolume]), rfl⟩)
    · exact .inl rfl

/-- The registers a parameter write leaves alone, and that it keeps legal registers legal. -/
theorem writeParam_legal {cfg : Config} {x : Instrument} (lg : x.Legal cfg) (index : Byte)
    (value : BitVec 16) : (writeParam x index value).Legal cfg := by
  rcases writeParam_cases x index value with h | ⟨hk, d, s, p, h⟩ | ⟨hk, l, hl, h⟩
  · rw [h]; exact lg
  · rw [h]
    exact ⟨lg.initialWave, lg.seqWave, lg.sequencerLength, lg.arpeggioLength, lg.attackLevel,
      lg.decayLevel, lg.sustainLevel, lg.pcmVolume, lg.sampleLength, lg.loopInside, lg.synthNeutral,
      fun hp => absurd hp (by simp [hk])⟩
  · rw [h]
    obtain ⟨n1, n2, n3, n4, n5, n6, n7, n8, n9, n10, n11, n12, n13, n14, n15, n16⟩ := lg.pcmNeutral hk
    exact ⟨lg.initialWave, lg.seqWave, lg.sequencerLength, lg.arpeggioLength, hl, le_rfl, hl, hl,
      lg.sampleLength, lg.loopInside, fun hs => absurd hs (by simp [hk]),
      fun _ => ⟨n1, n2, n3, n4, rfl, n6, rfl, n8, rfl, n10, n11, n12, n13, n14, n15, n16⟩⟩

/-- SET_PARAM leaves a good voice. -/
theorem writeParam_good {cfg : Config} {v : Voice} (g : v.Good cfg) (ld : v.loaded = true)
    (index : Byte) (value : BitVec 16) :
    Voice.Good cfg { v with instrument := writeParam v.instrument index value } := by
  have lg := writeParam_legal (g.storage.legal ld) index value
  have e := g.envelope
  have m := g.modulation
  have o := g.oscillator
  have keep : (writeParam v.instrument index value).kind = v.instrument.kind ∧
      (writeParam v.instrument index value).attackLength = v.instrument.attackLength ∧
      (writeParam v.instrument index value).decayLength = v.instrument.decayLength ∧
      (writeParam v.instrument index value).sustainLength = v.instrument.sustainLength ∧
      (writeParam v.instrument index value).releaseLength = v.instrument.releaseLength ∧
      (writeParam v.instrument index value).arpeggioLength = v.instrument.arpeggioLength ∧
      (writeParam v.instrument index value).sequencerLength = v.instrument.sequencerLength ∧
      (writeParam v.instrument index value).sequencerSpeed = v.instrument.sequencerSpeed ∧
      (writeParam v.instrument index value).sampleLength = v.instrument.sampleLength ∧
      (writeParam v.instrument index value).loopLength = v.instrument.loopLength ∧
      (writeParam v.instrument index value).loopStart = v.instrument.loopStart := by
    rcases writeParam_cases v.instrument index value with h | ⟨_, d, s, p, h⟩ | ⟨_, l, _, h⟩ <;>
      rw [h] <;> exact ⟨rfl, rfl, rfl, rfl, rfl, rfl, rfl, rfl, rfl, rfl, rfl⟩
  obtain ⟨k1, k2, k3, k4, k5, k6, k7, k8, k9, k10, k11⟩ := keep
  have le : loopEnd (writeParam v.instrument index value) = loopEnd v.instrument := by
    unfold loopEnd; rw [k10, k11]
  constructor
  · exact ⟨g.storage.canonical, fun _ => lg,
      fun h a => (g.storage.specified h a).trans (by rw [k9]), g.storage.allocated⟩
  · exact ⟨e.off_iff, e.active_loaded, e.volume_nonneg, e.volume_le, e.off_volume, e.ticks,
      by dsimp only; rw [k2]; exact e.attack, by dsimp only; rw [k3]; exact e.decay,
      by dsimp only; rw [k4]; exact e.sustain, by dsimp only; rw [k5]; exact e.release⟩
  · exact ⟨m.vibrato_nonneg, m.vibrato_lt, m.vibratoDelay, by dsimp only; rw [k6]; exact m.arpeggio,
      by dsimp only; rw [k7]; exact m.sequencerStep, m.sequencerCounter,
      by dsimp only; rw [k8]; exact m.sequencerPending⟩
  · exact ⟨o.phase_nonneg, o.increment_nonneg, o.clock_nonneg, o.clock_lt, o.wave,
      by dsimp only; rw [k1]; exact o.synth_phase, by dsimp only; rw [k1, k9]; exact o.pcm_phase,
      by dsimp only; rw [k1, k10, le]; exact o.pcm_loop⟩

/-! ## CREATE_VOICE's slot -/

theorem firstFreeFrom_spec (s : State) : ∀ (n v : Nat), v + n = 16 →
    (∀ h, firstFreeFrom s n v = some h → v ≤ h.toNat ∧ (s.voice h).allocated = false ∧
      ∀ u : Handle, v ≤ u.toNat → u.toNat < h.toNat → (s.voice u).allocated = true) ∧
    (firstFreeFrom s n v = none → ∀ u : Handle, v ≤ u.toNat → (s.voice u).allocated = true)
  | 0, v, hv => by
    refine ⟨fun h e => by simp [firstFreeFrom] at e, fun _ u hu => ?_⟩
    have := u.isLt; omega
  | n + 1, v, hv => by
    have hlt : v < 16 := by omega
    have tn : (BitVec.ofNat 4 v).toNat = v := by
      rw [BitVec.toNat_ofNat]; exact Nat.mod_eq_of_lt hlt
    have ih := firstFreeFrom_spec s n (v + 1) (by omega)
    have eqv : ∀ u : Handle, u.toNat = v → u = BitVec.ofNat 4 v := fun u hu =>
      BitVec.eq_of_toNat_eq (by rw [hu, tn])
    unfold firstFreeFrom
    split
    · rename_i ha
      refine ⟨fun h e => ?_, fun e u hu => ?_⟩
      · obtain ⟨h1, h2, h3⟩ := ih.1 h e
        refine ⟨by omega, h2, fun u hu hl => ?_⟩
        by_cases hz : u.toNat = v
        · rw [eqv u hz]; exact ha
        · exact h3 u (by omega) hl
      · by_cases hz : u.toNat = v
        · rw [eqv u hz]; exact ha
        · exact ih.2 e u (by omega)
    · rename_i ha
      refine ⟨fun h e => ?_, fun e => by simp at e⟩
      simp only [Option.some.injEq] at e
      rw [← e]
      refine ⟨by rw [tn], by simpa using ha, fun u hu hl => ?_⟩
      rw [tn] at hl; omega

/-- The slot CREATE_VOICE takes is the least free one the block has (45_host_commands.md R213). -/
theorem freeHandle?_some {cfg : Config} {s : State} {v : Handle} (h : freeHandle? cfg s = some v) :
    v.toNat < cfg.nvoices ∧ (s.voice v).allocated = false ∧
      ∀ u : Handle, u.toNat < v.toNat → (s.voice u).allocated = true := by
  have sp := firstFreeFrom_spec s 16 0 rfl
  unfold freeHandle? at h
  split at h
  · rename_i w hw
    split_ifs at h with hn
    simp only [Option.some.injEq] at h
    subst h
    obtain ⟨_, h2, h3⟩ := sp.1 w hw
    exact ⟨hn, h2, fun u hu => h3 u (Nat.zero_le _) hu⟩
  · simp at h

/-- There is no such slot exactly when every slot of the block is allocated. -/
theorem freeHandle?_none {cfg : Config} {s : State} (h : freeHandle? cfg s = none) :
    ∀ u : Handle, u.toNat < cfg.nvoices → (s.voice u).allocated = true := by
  have sp := firstFreeFrom_spec s 16 0 rfl
  unfold freeHandle? at h
  split at h
  · rename_i w hw
    split_ifs at h with hn
    obtain ⟨_, _, h3⟩ := sp.1 w hw
    exact fun u hu => h3 u (Nat.zero_le _) (by omega)
  · rename_i hw
    exact fun u _ => sp.2 hw u (Nat.zero_le _)

/-- A valid handle has a Context, an index of the block, and an allocated slot
(60_exceptions.md R243). -/
theorem validHandle_spec {cfg : Config} {s : State} {v : Handle} (h : validHandle cfg s v = true) :
    s.valid = true ∧ v.toNat < cfg.nvoices ∧ (s.voice v).allocated = true := by
  simpa [validHandle] using h

end Sys2Proof.Laws
end

