-- ==== Sys2Proof/Laws/Config.lean ====
section
/-! SUPPORT. The machine's configuration has the constraints of 00_scope.md R6 and R7 and the named
properties of R8, whatever the opaque constants are. -/

namespace Sys2Proof.Laws

theorem ratioOf_pos (p : ℕ+ × ℕ+) : 0 < ratioOf p := by
  have h1 := p.1.pos
  have h2 := p.2.pos
  unfold ratioOf
  positivity

theorem octaves_pos (q : Int) : 0 < octaves q := by
  cases q <;> simp only [octaves] <;> positivity

theorem octaves_succ (q : Int) : octaves (q + 1) = 2 * octaves q := by
  rcases q with k | k
  · show octaves (Int.ofNat (k + 1)) = _
    simp only [octaves]; push_cast; ring
  · rcases k with _ | k
    · show octaves (Int.ofNat 0) = _
      simp only [octaves]; norm_num
    · show octaves (Int.negSucc k) = _
      simp only [octaves]; push_cast
      rw [pow_succ (2 : ℚ) (k + 1)]
      field_simp

theorem noteToFrequency_pos (n : Int) : 0 < Config.noteToFrequency n := by
  unfold Config.noteToFrequency
  refine mul_pos (octaves_pos _) ?_
  split
  · norm_num
  · exact ratioOf_pos _

theorem noteToFrequency_octave (n : Int) :
    Config.noteToFrequency (n + 12) = 2 * Config.noteToFrequency n := by
  have h1 : (n + 12 - 69) / 12 = (n - 69) / 12 + 1 := by omega
  have h2 : (n + 12 - 69) % 12 = (n - 69) % 12 := by omega
  unfold Config.noteToFrequency
  rw [h1, h2, octaves_succ, mul_assoc]

theorem centsToRatio_pos (x : ℚ) : 0 < Config.centsToRatio x := by
  unfold Config.centsToRatio
  split_ifs
  · norm_num
  · norm_num
  · norm_num
  · exact ratioOf_pos _

theorem sine_bounds (x : ℚ) : -1 ≤ Config.sine x ∧ Config.sine x ≤ 1 := by
  unfold Config.sine
  split_ifs
  · norm_num
  · norm_num
  · norm_num
  · norm_num
  · exact ⟨le_max_left _ _, max_le (by norm_num) (min_le_left _ _)⟩

theorem hw_admissible : Config.hw.Admissible where
  nvoices_pos := Nat.succ_pos _
  nvoices_le := Config.nvoicesPred.isLt
  nwaves_pos := Nat.succ_pos _
  nwaves_le := Config.nwavesPred.isLt
  waveLen_pos w := (Config.waveLength w).pos
  waveNorm_pos := Config.waveNormalisation.pos
  waveData_bound w i := by
    have h : (0 : Int) < ((Config.waveNormalisation : Nat) : Int) := by
      exact_mod_cast Config.waveNormalisation.pos
    exact abs_le.mpr ⟨le_max_left _ _, max_le (by omega) (min_le_left _ _)⟩
  pcmMaxLen_lt := Config.pcmCeiling.isLt
  nativeFreq_pos := ratioOf_pos _
  vibSteps_pos := Config.vibratoSteps.pos
  vibDepthCents_nonneg := Config.vibratoDepthCents.2
  note2freq_pos := noteToFrequency_pos
  note2freq_tuning := by
    simp [Config.hw, Config.noteToFrequency, octaves]
  note2freq_octave := noteToFrequency_octave
  cents2ratio_pos := centsToRatio_pos
  cents2ratio_zero := by simp [Config.hw, Config.centsToRatio]
  cents2ratio_octave := by simp [Config.hw, Config.centsToRatio]
  cents2ratio_octave_down := by
    simp only [Config.hw, Config.centsToRatio]; norm_num
  sin_lower x := (sine_bounds x).1
  sin_upper x := (sine_bounds x).2
  sin_zero := by simp [Config.hw, Config.sine]
  sin_quarter := by simp only [Config.hw, Config.sine]; norm_num
  sin_half := by simp only [Config.hw, Config.sine]; norm_num
  sin_three_quarters := by simp only [Config.hw, Config.sine]; norm_num

end Sys2Proof.Laws
end

