-- ==== Sys2Proof/Laws/Encoding.lean ====
section
/-! SUPPORT. The fields of a command word as arithmetic on its value, and the fields of a word built from
fields (30_encoding.md R81, R82). -/

namespace Sys2Proof.Laws

theorem append_toNat {n m : Nat} (x : BitVec n) (y : BitVec m) :
    (x ++ y).toNat = x.toNat * 2 ^ m + y.toNat := by
  rw [BitVec.toNat_append, ← Nat.shiftLeft_add_eq_or_of_lt y.isLt, Nat.shiftLeft_eq]

theorem extract_toNat {w : Nat} (start len : Nat) (x : BitVec w) :
    (x.extractLsb' start len).toNat = x.toNat / 2 ^ start % 2 ^ len := by
  simp [BitVec.extractLsb'_toNat, Nat.shiftRight_eq_div_pow]

theorem opcodeField_toNat (w : Word) : (opcodeField w).toNat = w.toNat / 2 ^ 28 := by
  rw [opcodeField, extract_toNat]; omega

theorem wordOf_toNat (o : BitVec 4) (v : Handle) (x : Operand) :
    (wordOf o v x).toNat = o.toNat * 2 ^ 28 + v.toNat * 2 ^ 24 + x.toNat := by
  rw [wordOf, append_toNat, append_toNat]; ring

@[simp] theorem opcodeField_wordOf (o : BitVec 4) (v : Handle) (x : Operand) :
    opcodeField (wordOf o v x) = o := by
  apply BitVec.eq_of_toNat_eq; rw [opcodeField, extract_toNat, wordOf_toNat]; omega

@[simp] theorem voiceField_wordOf (o : BitVec 4) (v : Handle) (x : Operand) :
    voiceField (wordOf o v x) = v := by
  apply BitVec.eq_of_toNat_eq; rw [voiceField, extract_toNat, wordOf_toNat]; omega

@[simp] theorem operandField_wordOf (o : BitVec 4) (v : Handle) (x : Operand) :
    operandField (wordOf o v x) = x := by
  apply BitVec.eq_of_toNat_eq; rw [operandField, extract_toNat, wordOf_toNat]; omega

theorem noteField_wordOf (o : BitVec 4) (v : Handle) (x : Operand) :
    (noteField (wordOf o v x)).toNat = x.toNat / 2 ^ 8 % 2 ^ 7 := by
  rw [noteField, extract_toNat, wordOf_toNat]; omega

theorem velocityField_wordOf (o : BitVec 4) (v : Handle) (x : Operand) :
    (velocityField (wordOf o v x)).toNat = x.toNat % 2 ^ 7 := by
  rw [velocityField, extract_toNat, wordOf_toNat]; omega

theorem indexField_wordOf (o : BitVec 4) (v : Handle) (x : Operand) :
    (indexField (wordOf o v x)).toNat = x.toNat / 2 ^ 16 % 2 ^ 8 := by
  rw [indexField, extract_toNat, wordOf_toNat]; omega

theorem valueField_wordOf (o : BitVec 4) (v : Handle) (x : Operand) :
    (valueField (wordOf o v x)).toNat = x.toNat % 2 ^ 16 := by
  rw [valueField, extract_toNat, wordOf_toNat]; omega

theorem noteOperand_toNat (note velocity : SevenBit) :
    (noteOperand note velocity).toNat = note.toNat * 2 ^ 8 + velocity.toNat := by
  unfold noteOperand
  rw [append_toNat, append_toNat, append_toNat]
  simp; omega

theorem paramOperand_toNat (index : Byte) (value : BitVec 16) :
    (paramOperand index value).toNat = index.toNat * 2 ^ 16 + value.toNat := by
  rw [paramOperand, append_toNat]

end Sys2Proof.Laws
end

