-- ==== Sys2Proof/Laws/PerInstr.lean ====
section
/-! SUPPORT. Statements made for every command, one lemma per constructor. -/

namespace Sys2Proof.Laws

/-- The opcode of the opcode map (30_encoding.md R83). -/
def opcodeOf : Instr → Nat
  | .init _ => 1
  | .dispose => 2
  | .createVoice => 3
  | .destroyVoice _ => 4
  | .loadInstrument _ _ => 5
  | .noteOn _ _ _ => 6
  | .noteOff _ => 7
  | .render _ _ => 8
  | .setParam _ _ _ => 9
  | .getParam _ _ => 10

/-- The encoding of a well-formed command carries its opcode in bits 31:28 and is followed by exactly
the payload its word declares (R80, R81, R83). -/
def EncodedForm.Statement (i : Instr) : Prop :=
  i.wellFormed = true →
    (encode i).word.toNat / 2 ^ 28 = opcodeOf i ∧
    (encode i).payload.length = declaredPayload (encode i).word

/-- The form of a command without payload. -/
theorem encodedForm_plain (o : BitVec 4) (v : Handle) (x : Operand) (ne : o ≠ 5) :
    (wordOf o v x).toNat / 2 ^ 28 = o.toNat ∧
    ([] : List Byte).length = declaredPayload (wordOf o v x) := by
  rw [← opcodeField_toNat, declaredPayload, opcodeField_wordOf, if_neg ne]
  exact ⟨rfl, rfl⟩

theorem EncodedForm.init (rate : Operand) : EncodedForm.Statement (.init rate) :=
  fun _ => encodedForm_plain 1 0 rate (by decide)

theorem EncodedForm.dispose : EncodedForm.Statement .dispose :=
  fun _ => encodedForm_plain 2 0 0 (by decide)

theorem EncodedForm.createVoice : EncodedForm.Statement .createVoice :=
  fun _ => encodedForm_plain 3 0 0 (by decide)

theorem EncodedForm.destroyVoice (v : Handle) : EncodedForm.Statement (.destroyVoice v) :=
  fun _ => encodedForm_plain 4 v 0 (by decide)

theorem EncodedForm.loadInstrument (v : Handle) (payload : List Byte) :
    EncodedForm.Statement (.loadInstrument v payload) := by
  intro wf
  have fits : payload.length < 2 ^ 24 := of_decide_eq_true wf
  simp only [encode, declaredPayload, opcodeField_wordOf, operandField_wordOf, opcodeOf,
    ← opcodeField_toNat, BitVec.toNat_ofNat, if_true, Nat.mod_eq_of_lt fits]
  exact ⟨rfl, trivial⟩

theorem EncodedForm.noteOn (v : Handle) (note velocity : SevenBit) :
    EncodedForm.Statement (.noteOn v note velocity) :=
  fun _ => encodedForm_plain 6 v (noteOperand note velocity) (by decide)

theorem EncodedForm.noteOff (v : Handle) : EncodedForm.Statement (.noteOff v) :=
  fun _ => encodedForm_plain 7 v 0 (by decide)

theorem EncodedForm.render (v : Handle) (n : Operand) : EncodedForm.Statement (.render v n) :=
  fun _ => encodedForm_plain 8 v n (by decide)

theorem EncodedForm.setParam (v : Handle) (index : Byte) (value : BitVec 16) :
    EncodedForm.Statement (.setParam v index value) :=
  fun _ => encodedForm_plain 9 v (paramOperand index value) (by decide)

theorem EncodedForm.getParam (v : Handle) (index : Byte) :
    EncodedForm.Statement (.getParam v index) :=
  fun _ => encodedForm_plain 10 v (paramOperand index 0) (by decide)

end Sys2Proof.Laws
end

