-- ==== Sys2Proof/Tests/Slice0.lean ====
section
/-! SUPPORT. The model's own tests. Expected values come from 30_encoding.md R83 and from the vectors of
95_test_vectors.md, named at each test. The `witness_` theorems show, for every obligation with
hypotheses, a concrete state and operands that meet them all. -/

namespace Sys2Proof.Tests

open Sys2Proof.Machine Sys2Proof.Laws

/-! ## WellFormed smoke test (R60, R82) -/

/-- Well-formedness of a payload of n zero bytes. -/
theorem wellFormed_of_length (n : Nat) :
    (Instr.loadInstrument 0 (List.replicate n 0)).wellFormed = decide (n < 2 ^ 24) := by
  rw [Instr.wellFormed, payloadFits, List.length_replicate]

/-- A payload of 2^24 bytes does not fit the length operand. -/
theorem test_wellFormed_refuses_long_payload :
    (Instr.loadInstrument 0 (List.replicate 16777216 0)).wellFormed = false :=
  (wellFormed_of_length 16777216).trans (decide_eq_false (by norm_num))

/-- The longest payload, 2^24 - 1 bytes, is accepted. -/
theorem test_wellFormed_accepts_longest_payload :
    (Instr.loadInstrument 0 (List.replicate 16777215 0)).wellFormed = true :=
  (wellFormed_of_length 16777215).trans (decide_eq_true (by norm_num))

/-! ## Decoding (R83, and the word table of 95_test_vectors.md) -/

theorem test_decode_init : decode ⟨0x1000BB80, []⟩ = .ok (.init 48000) := by decide
theorem test_decode_dispose : decode ⟨0x20000000, []⟩ = .ok .dispose := by decide
theorem test_decode_createVoice : decode ⟨0x30000000, []⟩ = .ok .createVoice := by decide
theorem test_decode_destroyVoice : decode ⟨0x43000000, []⟩ = .ok (.destroyVoice 3) := by decide
theorem test_decode_loadInstrument :
    decode ⟨0x50000002, [0x01, 0x40]⟩ = .ok (.loadInstrument 0 [0x01, 0x40]) := by decide
theorem test_decode_noteOn : decode ⟨0x61005140, []⟩ = .ok (.noteOn 1 81 64) := by decide
theorem test_decode_noteOff : decode ⟨0x73000000, []⟩ = .ok (.noteOff 3) := by decide
theorem test_decode_render : decode ⟨0x87FFFFFF, []⟩ = .ok (.render 7 16777215) := by decide
theorem test_decode_setParam : decode ⟨0x900F00C8, []⟩ = .ok (.setParam 0 15 200) := by decide
theorem test_decode_getParam : decode ⟨0xA1510000, []⟩ = .ok (.getParam 1 81) := by decide

/-- Reserved bits are ignored (R86): operand bit 7 of a NOTE_ON, voice and operand of a CREATE_VOICE. -/
theorem test_decode_reserved_bits :
    decode ⟨0x600045FF, []⟩ = .ok (.noteOn 0 69 127) ∧
    decode ⟨0x3A123456, []⟩ = .ok .createVoice := by decide

/-- Reserved opcodes (R85), the first and last of each range. -/
theorem test_decode_reserved_opcodes :
    decode ⟨0x00000000, []⟩ = .error .reservedOpcode ∧
    decode ⟨0x0FFFFFFF, []⟩ = .error .reservedOpcode ∧
    decode ⟨0xB0000000, []⟩ = .error .reservedOpcode ∧
    decode ⟨0xFFFFFFFF, []⟩ = .error .reservedOpcode := by decide

/-- The payload has exactly the declared length (R80). -/
theorem test_decode_payload_length :
    decode ⟨0x50000002, [0x01]⟩ = .error .payloadLength ∧
    decode ⟨0x20000000, [0x01]⟩ = .error .payloadLength := by decide

/-- The table's view: a word alone, and a word whose two payload bytes follow it. -/
theorem test_decodeTableWord :
    decodeTableWord 32 0x6000457F = some (.noteOn 0 69 127) ∧
    decodeTableWord 32 0x50000000 = some (.loadInstrument 0 []) ∧
    decodeTableWord 48 0x400150000002 = some (.loadInstrument 0 [0x01, 0x40]) ∧
    decodeTableWord 32 0xC0000000 = none := by decide

/-! ## One step, under TC0 (00_scope.md R13) -/

/-- TC0; the functions only at the arguments R8 pins. -/
def tc0 : Config where
  nvoices := 8
  nwaves := 2
  waveLen w := if w = 0 then 16 else 32
  waveData w i := if w = 0 then -128 + 16 * (i : Int) else if i < 16 then 64 else -64
  waveNorm := 128
  pcmMaxLen := 65536
  nativeFreq := 440
  vibSteps := 64
  vibDepthCents := 100
  finetuneCents := 75
  note2freq n := octaves ((n - 69) / 12) * 440
  cents2ratio c := if c = 1200 then 2 else if c = -1200 then 1 / 2 else 1
  sin x := if x = 1 / 4 then 1 else if x = 3 / 4 then -1 else 0

/-- A block with a Context at a rate and a given voice 0; every other slot as after reset. -/
def demo (rate : Operand) (v : Voice) : State :=
  { State.reset.setVoice 0 v with valid := true, sampleRate := rate }

/-- Voice 0 with the instrument of a blob loaded under TC0. -/
def loaded (payload : List Byte) : Voice :=
  match parse tc0 payload with
  | .ok (x, m) => { Voice.atReset with allocated := true, loaded := true, instrument := x, sram := m }
  | .error _ => Voice.atReset

/-- The state of a completed step; the reset state for any other outcome. -/
def after : Host.Outcome State Fault Refusal → State
  | .next s => s
  | _ => State.reset

/-- The last response and frame values (left channel) of a completed step. -/
def lastReply (o : Host.Outcome State Fault Refusal) : Option (Int × List ℚ) :=
  (after o).replies.getLast?.map fun r => (r.response.toInt, r.frames.map Frame.left)

/-- The blob of S1 and P1. -/
def s1Blob : List Byte :=
  [0, 0, 0, 0, 4, 0x40, 8, 0x20, 0, 0x20, 8, 0, 0, 0, 0, 0] ++ List.replicate 64 0

/-- The blob of P2: volume 32, four samples, no loop. -/
def p2Blob : List Byte :=
  [1, 0x20, 0, 0, 4, 0, 0, 0, 0, 0, 0, 0, 0, 0, 0, 0, 0x40, 0xC0, 0x7F, 0x80]

/-- H2. -/
theorem test_init_refuses_49 : lastReply (execInit 49 State.reset) = some (-7, []) := by decide +kernel

/-- H2. -/
theorem test_init_accepts_50 :
    (after (execInit 50 State.reset)).valid = true ∧
    (after (execInit 50 State.reset)).sampleRate = 50 := by decide +kernel

/-- P4: after DISPOSE the Context is gone and no slot is allocated. -/
theorem test_dispose :
    (after (execDispose (demo 44100 (loaded s1Blob)))).valid = false ∧
    ((after (execDispose (demo 44100 (loaded s1Blob)))).voice 0).allocated = false := by
  decide +kernel

/-- H4: with slot 0 taken, the next handle is 1. -/
theorem test_createVoice : lastReply (createVoiceWith tc0 (demo 50 (loaded s1Blob))) = some (1, []) := by
  decide +kernel

/-- H15: DESTROY_VOICE clears `loaded` and `allocated`. -/
theorem test_destroyVoice :
    ((after (destroyVoiceWith tc0 0 (demo 50 (loaded s1Blob)))).voice 0).allocated = false ∧
    ((after (destroyVoiceWith tc0 0 (demo 50 (loaded s1Blob)))).voice 0).loaded = false := by
  decide +kernel

/-- L8b and L10: the ceiling is checked before the data length. -/
theorem test_load_checks :
    lastReply (loadInstrumentWith tc0 0 ([1, 0, 0, 0, 0, 0, 1, 0] ++ List.replicate 8 0)
      (demo 44100 (loaded s1Blob))) = some (-3, []) ∧
    lastReply (loadInstrumentWith tc0 0 ([1, 0, 0, 0, 0x70, 0x11, 1, 0] ++ List.replicate 9 0)
      (demo 44100 (loaded s1Blob))) = some (-4, []) := by decide +kernel

/-- L16: volume clamped, finetune -3, the four sample bytes, the trailing two ignored. -/
theorem test_load_pcm :
    let w := loaded [1, 0xC8, 0xFD, 0, 4, 0, 0, 0, 0, 0, 0, 0, 0, 0, 0, 0,
      0x80, 0xFF, 0, 0x7F, 0x55, 0x66]
    w.instrument.pcmVolume = 64 ∧ w.instrument.finetune.toInt = -3 ∧
    w.sram = [(0, 0x80), (1, 0xFF), (2, 0), (3, 0x7F)] := by decide +kernel

/-- P1 after NOTE_ON: Attack, volume 0, increment 704/5. -/
theorem test_noteOn_synth :
    let w := (after (noteOnWith tc0 0 69 127 (demo 50 (loaded s1Blob)))).voice 0
    w.envelopeState = .attack ∧ w.envelopeVolume = 0 ∧ w.phaseIncrement = 704 / 5 := by
  decide +kernel

/-- P2 after NOTE_ON: Sustain at volume 32, increment 2. -/
theorem test_noteOn_pcm :
    let w := (after (noteOnWith tc0 0 81 64 (demo 44100 (loaded p2Blob)))).voice 0
    w.envelopeState = .sustain ∧ w.envelopeVolume = 32 ∧ w.phaseIncrement = 2 := by
  decide +kernel

/-- E13: NOTE_OFF right after NOTE_ON enters Release at volume 0, still active. -/
theorem test_noteOff :
    let w := (after (noteOffWith tc0 0 (after (noteOnWith tc0 0 69 127 (demo 50 (loaded s1Blob)))))).voice 0
    w.envelopeState = .release ∧ w.envelopeVolume = 0 ∧ w.active = true := by
  decide +kernel

/-- P1, the first four frames: -1/4, 1/4, 3/32, -1/4. -/
theorem test_render_synth :
    lastReply (renderWith tc0 0 4 (after (noteOnWith tc0 0 69 127 (demo 50 (loaded s1Blob))))) =
      some (0, [-1 / 4, 1 / 4, 3 / 32, -1 / 4]) := by decide +kernel

/-- P2: frames 16/127, 1/4, then the sample has ended. -/
theorem test_render_pcm :
    lastReply (renderWith tc0 0 4 (after (noteOnWith tc0 0 81 64 (demo 44100 (loaded p2Blob))))) =
      some (0, [16 / 127, 1 / 4, 0, 0]) := by decide +kernel

/-- H10: the vibrato speed is clamped to 255; the attack level cannot be set. -/
theorem test_setParam :
    ((after (setParamWith tc0 0 12 300 (demo 50 (loaded s1Blob)))).voice 0).instrument.vibratoSpeed = 255 ∧
    ((after (setParamWith tc0 0 5 1 (demo 50 (loaded s1Blob)))).voice 0).instrument.attackLevel = 64 := by
  decide +kernel

/-- L13: an arpeggio entry -12 reads sign-extended; a sequencer transpose -3 too. -/
theorem test_getParam_signed :
    let s := demo 50 (loaded ([0] ++ List.replicate 16 0 ++ [0xFD] ++ List.replicate 48 0 ++ [0xF4]
      ++ List.replicate 13 0))
    lastReply (getParamWith tc0 0 66 s) = some (-12, []) ∧
    lastReply (getParamWith tc0 0 17 s) = some (-3, []) := by decide +kernel

/-- S9: reading back S1's decay length. -/
theorem test_getParam_unsigned :
    lastReply (getParamWith tc0 0 6 (demo 50 (loaded s1Blob))) = some (8, []) := by decide +kernel

/-- `withFetchWord` makes the next step run the instruction: INIT 44100 from reset. -/
theorem test_withFetchWord :
    (after (step (State.reset.withFetchWord 32 0x1000AC44))).sampleRate = 44100 := by decide +kernel

/-! ## Witnesses

The demo states hold voice 0 on wave 0, which every configuration has. -/

/-- A legal synth instrument: attack 4, decay 2, hold, release 3, no modulation. -/
def demoSynth : Instrument :=
  { Instrument.atReset with
    attackLength := 4, attackLevel := 64, decayLength := 2, decayLevel := 32, sustainLevel := 48,
    releaseLength := 3 }

/-- A legal PCM instrument without samples. -/
def demoPcm : Instrument := { Instrument.atReset with kind := .pcmSample }

/-- A voice that holds an instrument and does not sound. -/
def holding (x : Instrument) : Voice :=
  { Voice.atReset with allocated := true, loaded := true, instrument := x }

/-- A voice that sounds in Sustain at volume 48, at the start of wave 0. -/
def sounding (x : Instrument) : Voice :=
  { holding x with
    active := true, envelopeState := .sustain, envelopeVolume := 48, baseNote := 69, velocity := 127 }

theorem demo_voice (rate : Operand) (v : Voice) : (demo rate v).voice 0 = v := rfl

theorem hw_has_voice : 0 < Config.hw.nvoices := hw_admissible.nvoices_pos

theorem demo_validHandle (rate : Operand) (v : Voice) (h : v.allocated = true) :
    validHandle Config.hw (demo rate v) 0 = true := by
  simp only [validHandle, demo_voice, h, Bool.and_true]
  exact decide_eq_true hw_has_voice

theorem demo_good {rate : Operand} {v : Voice} (g : v.Good Config.hw) (hr : 50 ≤ rate.toNat) :
    (demo rate v).Good Config.hw where
  voices u := by
    by_cases h : u = 0
    · rw [h]; exact g
    · exact (setVoice_voice_ne State.reset u 0 v h).symm ▸ reset_voice u ▸ atReset_good hw_admissible
  slots u hu := by
    have ne : u ≠ 0 := by
      rintro rfl; exact absurd hw_has_voice (Nat.not_lt.2 hu)
    have e : (demo rate v).voice u = State.reset.voice u := setVoice_voice_ne State.reset u 0 v ne
    rw [e, reset_voice]; rfl
  rate _ := hr
  noContext h := by cases h

theorem demoSynth_legal : demoSynth.Legal Config.hw := by
  have h := hw_admissible.nwaves_pos
  constructor <;> simp [demoSynth, Instrument.atReset, tableMax, maxVolume] <;> omega

theorem demoPcm_legal : demoPcm.Legal Config.hw := by
  have h := hw_admissible.nwaves_pos
  constructor <;> simp [demoPcm, Instrument.atReset, tableMax, maxVolume] <;> omega

theorem holding_storage {x : Instrument} (lg : x.Legal Config.hw) (h : x.sampleLength = 0) :
    (holding x).StorageGood Config.hw where
  canonical := rfl
  legal _ := lg
  specified _ a := by simp [holding, Voice.atReset, Memory.read?, h]
  allocated _ := rfl

theorem holding_good {x : Instrument} (lg : x.Legal Config.hw) (h : x.sampleLength = 0) :
    (holding x).Good Config.hw :=
  playReset_good hw_admissible (v := holding x) (holding_storage lg h) le_rfl
    (by norm_num [holding, Voice.atReset, tickHz])

theorem sounding_good {x : Instrument} (lg : x.Legal Config.hw) (h : x.sampleLength = 0)
    (hk : x.kind = .wavetableSynth) : (sounding x).Good Config.hw := by
  have g := holding_good lg h
  have st := holding_storage lg h
  have md := g.modulation
  refine ⟨⟨st.canonical, st.legal, st.specified, st.allocated⟩, ?_,
    ⟨md.vibrato_nonneg, md.vibrato_lt, md.vibratoDelay, md.arpeggio, md.sequencerStep,
      md.sequencerCounter, md.sequencerPending⟩, ?_⟩
  · constructor <;> (simp [sounding, holding, Voice.atReset, maxVolume]; try norm_num)
  · refine ⟨le_rfl, le_rfl, le_rfl, g.oscillator.clock_lt, g.oscillator.wave, fun _ _ => ?_, ?_, ?_⟩
    · exact Nat.cast_pos.2 (hw_admissible.waveLen_pos _)
    · intro _ k; simp [sounding, holding, hk] at k
    · intro _ k; simp [sounding, holding, hk] at k

/-- Voice 0 sounding at 44100 Hz: a good state. -/
def playing : State := demo 44100 (sounding demoSynth)

theorem playing_good : playing.Good Config.hw :=
  demo_good (sounding_good demoSynth_legal rfl rfl) (by decide)

theorem playing_validHandle : validHandle Config.hw playing 0 = true := demo_validHandle _ _ rfl

/-- A PCM instrument of two samples that loops over both. -/
def demoLoop : Instrument := { demoPcm with sampleLength := 2, loopLength := 2 }

theorem demoLoop_legal (h : 2 ≤ Config.hw.pcmMaxLen) : demoLoop.Legal Config.hw := by
  have w := hw_admissible.nwaves_pos
  constructor <;> simp [demoLoop, demoPcm, Instrument.atReset, tableMax, maxVolume, loopEnd] <;> omega

/-- Voice 0 sounding on that instrument, with the bytes 40H and C0H, at 44100 Hz. -/
def loopVoice : Voice := { sounding demoLoop with sram := [(0, 0x40), (1, 0xC0)] }

/-- The state of the PCM witnesses. -/
def looping : State := demo 44100 loopVoice

theorem loopVoice_good (h : 2 ≤ Config.hw.pcmMaxLen) : loopVoice.Good Config.hw := by
  have w : 0 < Config.hw.nwaves := hw_admissible.nwaves_pos
  refine ⟨⟨by decide, fun _ => demoLoop_legal h, fun _ a => ?_, fun _ => rfl⟩, ?_, ?_, ?_⟩
  · show (Memory.read? [(0, 0x40), (1, 0xC0)] a).isSome = true ↔ a < 2
    rcases a with _ | _ | a <;> simp [Memory.read?]
  · constructor <;> (simp [loopVoice, sounding, holding, Voice.atReset, maxVolume]; try norm_num)
  · constructor <;>
      simp [loopVoice, sounding, holding, Voice.atReset, demoLoop, demoPcm, Instrument.atReset]
  · constructor <;>
      simp [loopVoice, sounding, holding, Voice.atReset, demoLoop, demoPcm, Instrument.atReset, tickHz,
        loopEnd, w]

theorem looping_good (h : 2 ≤ Config.hw.pcmMaxLen) : looping.Good Config.hw :=
  demo_good (loopVoice_good h) (by decide)

theorem zeros_byte (n o : Nat) : payloadByte (List.replicate n 0) o = 0 := by
  simp only [payloadByte, List.getD_eq_getElem?_getD, List.getElem?_replicate]
  split <;> rfl

/-! ### Encoding and step -/

theorem witness_DecodeOfEncode : (Instr.noteOn 0 69 127).wellFormed = true := rfl

theorem witness_EncodeOfDecode : decode ⟨0x600045FF, []⟩ = .ok (.noteOn 0 69 127) := by decide

theorem witness_DecodeReadsFields :
    [1, 0x40].length = (if (0x50000002 : Word).toNat / 2 ^ 28 = 5
      then (0x50000002 : Word).toNat % 2 ^ 24 else 0) ∧
    [1].length ≠ (if (0x50000002 : Word).toNat / 2 ^ 28 = 5
      then (0x50000002 : Word).toNat % 2 ^ 24 else 0) := by decide

theorem witness_ReservedOpcodeResponds :
    (0x0FFFFFFF : Word).toNat / 2 ^ 28 = 0 ∧ 11 ≤ (0xB0000000 : Word).toNat / 2 ^ 28 := by decide

/-- NOTE_OFF of the sounding voice as the next command. -/
def released : State := { playing with commands := [⟨0x70000000, []⟩] }

theorem released_good : released.Good Config.hw :=
  ⟨playing_good.voices, playing_good.slots, playing_good.rate, playing_good.noContext⟩

theorem noteOff_next (v : Handle) (s : State) : ∃ t, execNoteOff v s = .next t := by
  unfold execNoteOff noteOffWith; split <;> exact ⟨_, rfl⟩

theorem released_step : ∃ t, step released = .next t := noteOff_next 0 { released with commands := [] }

theorem witness_StepRunsDecodedInstruction :
    released.commands = ⟨0x70000000, []⟩ :: [] ∧ decode ⟨0x70000000, []⟩ = .ok (.noteOff 0) ∧
    (Instr.noteOff 0).wellFormed = true := ⟨rfl, by decide, rfl⟩

theorem witness_EveryCommandRepliesOnce :
    released.commands = ⟨0x70000000, []⟩ :: [] ∧ ∃ t, step released = .next t :=
  ⟨rfl, released_step⟩

theorem witness_StepKeepsGood : released.Good Config.hw ∧ ∃ t, step released = .next t :=
  ⟨released_good, released_step⟩

theorem witness_GoodStepIsSafe : released.Good Config.hw := released_good

theorem witness_StepKeepsMemoryCanonical :
    released.MemoryCanonical ∧ ∃ t, step released = .next t :=
  ⟨fun v => (released_good.voices v).storage.canonical, released_step⟩

/-! ### Errors, isolation, context and voice commands -/

theorem witness_InvalidHandleTable :
    validHandle Config.hw State.reset 0 = false ∧ State.reset.valid = false ∧
    50 ≤ (50 : Operand).toNat := ⟨rfl, rfl, by decide⟩

theorem witness_ErrorsChangeNothing :
    step { State.reset with commands := [⟨0x10000031, []⟩] } =
      .next { State.reset with replies := [] ++ [⟨BitVec.ofInt 32 (-7), []⟩] } ∧
    (BitVec.ofInt 32 (-7)).toInt < 0 := ⟨rfl, by decide⟩

theorem witness_CommandConfinedToItsVoice :
    targetVoice (.noteOff 0) = some 0 ∧
    (playing.setVoice 1 (holding demoPcm)).valid = playing.valid ∧
    (playing.setVoice 1 (holding demoPcm)).sampleRate = playing.sampleRate ∧
    (playing.setVoice 1 (holding demoPcm)).voice 0 = playing.voice 0 ∧
    (playing.setVoice 1 (holding demoPcm)).unspecifiedDraws = playing.unspecifiedDraws ∧
    ∃ t, exec (.noteOff 0) playing = .next t :=
  ⟨rfl, rfl, rfl, setVoice_voice_ne playing 0 1 _ (by decide), rfl, noteOff_next 0 playing⟩

theorem witness_InitCreatesContext : (49 : Operand).toNat < 50 ∧ 50 ≤ (50 : Operand).toNat := by decide

theorem witness_DisposeTearsDown : playing.valid = true ∧ State.reset.valid = false := ⟨rfl, rfl⟩

theorem witness_CreateVoiceTakesLeastFree :
    (demo 50 Voice.atReset).valid = true ∧ (0 : Handle).toNat < Config.hw.nvoices ∧
    ((demo 50 Voice.atReset).voice 0).allocated = false ∧
    ∀ u : Handle, u.toNat < (0 : Handle).toNat → ((demo 50 Voice.atReset).voice u).allocated = true :=
  ⟨rfl, hw_has_voice, rfl, fun _ h => absurd h (Nat.not_lt_zero _)⟩

/-- A Context with every slot allocated. -/
def full : State :=
  { State.reset with valid := true, sampleRate := 50, voices := Vector.replicate 16 (holding demoSynth) }

theorem witness_CreateVoiceExhausted :
    State.reset.valid = false ∧
    (full.valid = true ∧ ∀ v : Handle, v.toNat < Config.hw.nvoices → (full.voice v).allocated = true) :=
  ⟨rfl, rfl, fun v _ => by simp [full, State.voice, holding]⟩

theorem witness_DestroyVoiceFreesSlot : validHandle Config.hw playing 0 = true := playing_validHandle

/-! ### LOAD_INSTRUMENT -/

/-- A PCM header alone that declares n sample bytes, n given by its four bytes. -/
def pcmHeader (n0 n1 n2 n3 : Byte) : List Byte := [1, 0, 0, 0, n0, n1, n2, n3, 0, 0, 0, 0, 0, 0, 0, 0]

theorem witness_LoadChecksInOrder :
    validHandle Config.hw playing 0 = true ∧
    ([2] ≠ ([] : List Byte) ∧ 1 < (payloadByte [2] 0).toNat) ∧
    (List.replicate 79 0 ≠ ([] : List Byte) ∧ payloadByte (List.replicate 79 0) 0 = 0 ∧
      (List.replicate 79 (0 : Byte)).length < 80) ∧
    (1 :: List.replicate 14 0 ≠ ([] : List Byte) ∧ payloadByte (1 :: List.replicate 14 0) 0 = 1 ∧
      (1 :: List.replicate 14 (0 : Byte)).length < 16) ∧
    (payloadByte (pcmHeader 0 0 0 1) 0 = 1 ∧ 16 ≤ (pcmHeader 0 0 0 1).length ∧
      Config.hw.pcmMaxLen < (le32 (pcmHeader 0 0 0 1) 4).toNat) ∧
    (payloadByte (pcmHeader 1 0 0 0) 0 = 1 ∧ 16 ≤ (pcmHeader 1 0 0 0).length ∧
      (pcmHeader 1 0 0 0).length < 16 + (le32 (pcmHeader 1 0 0 0) 4).toNat) :=
  ⟨playing_validHandle, by decide, by decide, by decide, ⟨rfl, by decide, hw_admissible.pcmMaxLen_lt⟩,
    by decide⟩

theorem witness_LoadSynth :
    validHandle Config.hw playing 0 = true ∧ 80 ≤ (List.replicate 80 (0 : Byte)).length ∧
    payloadByte (List.replicate 80 0) 0 = 0 := ⟨playing_validHandle, by decide, rfl⟩

theorem witness_LoadPcm :
    validHandle Config.hw playing 0 = true ∧ payloadByte (pcmHeader 0 0 0 0) 0 = 1 ∧
    16 + (le32 (pcmHeader 0 0 0 0) 4).toNat ≤ (pcmHeader 0 0 0 0).length ∧
    (le32 (pcmHeader 0 0 0 0) 4).toNat ≤ Config.hw.pcmMaxLen :=
  ⟨playing_validHandle, rfl, by decide, Nat.zero_le _⟩

theorem witness_LoopTruncatedToFit : 100 ≤ 100 ∧ 99 < 100 := by decide

/-- A synth blob of zeros. -/
def zeros : List Byte := List.replicate 80 0

theorem witness_SynthBlobRoundTrip :
    validHandle Config.hw playing 0 = true ∧ 80 ≤ zeros.length ∧ payloadByte zeros 0 = 0 ∧
    (payloadByte zeros 1).toNat < Config.hw.nwaves ∧ (payloadByte zeros 3).toNat ≤ 16 ∧
    (payloadByte zeros 5).toNat ≤ 64 ∧ (payloadByte zeros 7).toNat ≤ (payloadByte zeros 5).toNat ∧
    (payloadByte zeros 9).toNat ≤ 64 ∧ (payloadByte zeros 14).toNat ≤ 16 ∧
    (∀ k < 16, (payloadByte zeros (16 + 3 * k)).toNat < Config.hw.nwaves) ∧
    (79 : Byte).toNat < 80 ∧ (79 : Byte).toNat ≠ 15 :=
  ⟨playing_validHandle, by decide, rfl, hw_admissible.nwaves_pos, by decide, by decide, by decide,
    by decide, by decide, fun k _ => (zeros_byte 80 (16 + 3 * k)).symm ▸ hw_admissible.nwaves_pos,
    by decide, by decide⟩

theorem witness_PcmBlobRoundTrip :
    validHandle Config.hw playing 0 = true ∧ payloadByte (pcmHeader 0 0 0 0) 0 = 1 ∧
    16 + (le32 (pcmHeader 0 0 0 0) 4).toNat ≤ (pcmHeader 0 0 0 0).length ∧
    (le32 (pcmHeader 0 0 0 0) 4).toNat ≤ Config.hw.pcmMaxLen ∧
    (payloadByte (pcmHeader 0 0 0 0) 1).toNat ≤ 64 ∧
    (le32 (pcmHeader 0 0 0 0) 8).toNat + (le32 (pcmHeader 0 0 0 0) 12).toNat ≤
      (le32 (pcmHeader 0 0 0 0) 4).toNat :=
  ⟨playing_validHandle, rfl, by decide, Nat.zero_le _, by decide, by decide⟩

/-! ### Notes and parameters -/

/-- `demoSynth` with other attack and decay lengths. -/
def demoLengths (attack decay : Byte) : Instrument :=
  { demoSynth with attackLength := attack, decayLength := decay }

theorem witness_NoteOnStartsAttack :
    validHandle Config.hw playing 0 = true ∧ (playing.voice 0).loaded = true ∧
    (playing.voice 0).instrument.attackLength ≠ 0 ∧
    (playing.voice 0).instrument.kind = .wavetableSynth :=
  ⟨playing_validHandle, rfl, by decide, rfl⟩

theorem witness_NoteOnPassesZeroAttack :
    (validHandle Config.hw (demo 50 (holding (demoLengths 0 2))) 0 = true ∧
      (holding (demoLengths 0 2)).loaded = true ∧ (demoLengths 0 2).attackLength = 0 ∧
      (demoLengths 0 2).kind = .wavetableSynth ∧ (demoLengths 0 2).decayLength ≠ 0) ∧
    (validHandle Config.hw (demo 50 (holding (demoLengths 0 0))) 0 = true ∧
      (holding (demoLengths 0 0)).loaded = true ∧ (demoLengths 0 0).attackLength = 0 ∧
      (demoLengths 0 0).kind = .wavetableSynth ∧ (demoLengths 0 0).decayLength = 0) :=
  ⟨⟨demo_validHandle _ _ rfl, rfl, rfl, rfl, by decide⟩, demo_validHandle _ _ rfl, rfl, rfl, rfl, rfl⟩

theorem witness_NoteOnEmptySampleStaysOff :
    validHandle Config.hw (demo 50 (holding demoPcm)) 0 = true ∧
    ((demo 50 (holding demoPcm)).voice 0).loaded = true ∧
    ((demo 50 (holding demoPcm)).voice 0).instrument.kind = .pcmSample ∧
    ((demo 50 (holding demoPcm)).voice 0).instrument.sampleLength = 0 :=
  ⟨demo_validHandle _ _ rfl, rfl, rfl, rfl⟩

/-- The sounding demo voice in another envelope state. -/
def inState (e : EnvelopeState) : Voice := { sounding demoSynth with envelopeState := e }

theorem witness_NoteOffReleases :
    (validHandle Config.hw (demo 50 (inState .off)) 0 = true ∧
      ((demo 50 (inState .off)).voice 0).envelopeState = .off) ∧
    (validHandle Config.hw (demo 50 (inState .release)) 0 = true ∧
      ((demo 50 (inState .release)).voice 0).envelopeState = .release) ∧
    (validHandle Config.hw playing 0 = true ∧ (playing.voice 0).envelopeState ≠ .off ∧
      (playing.voice 0).envelopeState ≠ .release) :=
  ⟨⟨demo_validHandle _ _ rfl, rfl⟩, ⟨demo_validHandle _ _ rfl, rfl⟩, playing_validHandle,
    by decide +kernel, by decide +kernel⟩

theorem witness_SetParamWrites :
    (validHandle Config.hw playing 0 = true ∧ (playing.voice 0).loaded = true ∧
      (playing.voice 0).instrument.kind = .wavetableSynth) ∧
    (validHandle Config.hw (demo 50 (holding demoPcm)) 0 = true ∧ (holding demoPcm).loaded = true ∧
      demoPcm.kind = .pcmSample ∧ (15 : Byte) = 15 ∧ (14 : Byte) ≠ 15 ∧ (16 : Byte) ≠ 15) :=
  ⟨⟨playing_validHandle, rfl, rfl⟩, demo_validHandle _ _ rfl, rfl, rfl, by decide, by decide, by decide⟩

theorem witness_UnloadedVoiceIgnores : (State.reset.voice 0).loaded = false := rfl

theorem witness_GetParamReads :
    validHandle Config.hw playing 0 = true ∧ (playing.voice 0).loaded = true ∧
    (playing.voice 0).instrument = demoSynth ∧ 84 ≤ (84 : Byte).toNat :=
  ⟨playing_validHandle, rfl, rfl, by decide⟩

/-! ### RENDER -/

theorem witness_RenderCompletes : playing.Good Config.hw ∧ validHandle Config.hw playing 0 = true :=
  ⟨playing_good, playing_validHandle⟩

theorem witness_RenderInactiveIsSilent :
    validHandle Config.hw (demo 50 (holding demoSynth)) 0 = true ∧
    ((demo 50 (holding demoSynth)).voice 0).active = false := ⟨demo_validHandle _ _ rfl, rfl⟩

theorem playing_clock :
    (playing.voice 0).tickAccumulator + 1 / (playing.sampleRate.toNat : ℚ) < 1 / 50 := by
  decide +kernel

theorem witness_RenderOneSampleWithoutTick :
    playing.Good Config.hw ∧ validHandle Config.hw playing 0 = true ∧ (playing.voice 0).active = true ∧
    (playing.voice 0).tickAccumulator + 1 / (playing.sampleRate.toNat : ℚ) < 1 / 50 :=
  ⟨playing_good, playing_validHandle, rfl, playing_clock⟩

/-- The same for a sounding PCM voice, in every configuration that allows a sample of two bytes. -/
theorem witness_RenderOneSampleWithoutTick_pcm (h : 2 ≤ Config.hw.pcmMaxLen) :
    looping.Good Config.hw ∧ validHandle Config.hw looping 0 = true ∧ (looping.voice 0).active = true ∧
    (looping.voice 0).tickAccumulator + 1 / (looping.sampleRate.toNat : ℚ) < 1 / 50 :=
  ⟨looping_good h, demo_validHandle _ _ rfl, rfl, playing_clock⟩

/-- A synth instrument whose Sustain ends in its first tick. -/
def demoShort : Instrument := { demoSynth with sustainLength := 1, releaseLength := 0 }

theorem demoShort_legal : demoShort.Legal Config.hw := by
  have h := hw_admissible.nwaves_pos
  constructor <;> simp [demoShort, demoSynth, Instrument.atReset, tableMax, maxVolume] <;> omega

/-- At 50 Hz every sample has a tick: one after which the voice sounds on, one that ends it. -/
theorem witness_RenderOneSampleWithTick :
    ((demo 50 (sounding demoSynth)).Good Config.hw ∧
      validHandle Config.hw (demo 50 (sounding demoSynth)) 0 = true ∧
      (sounding demoSynth).active = true ∧
      1 / 50 ≤ (sounding demoSynth).tickAccumulator + 1 / ((50 : Operand).toNat : ℚ) ∧
      (envTick { sounding demoSynth with
        tickAccumulator :=
          (sounding demoSynth).tickAccumulator + 1 / ((50 : Operand).toNat : ℚ) - 1 / 50 }).active = true) ∧
    ((demo 50 (sounding demoShort)).Good Config.hw ∧
      validHandle Config.hw (demo 50 (sounding demoShort)) 0 = true ∧
      (sounding demoShort).active = true ∧
      1 / 50 ≤ (sounding demoShort).tickAccumulator + 1 / ((50 : Operand).toNat : ℚ) ∧
      (envTick { sounding demoShort with
        tickAccumulator :=
          (sounding demoShort).tickAccumulator + 1 / ((50 : Operand).toNat : ℚ) - 1 / 50 }).active = false) := by
  refine ⟨⟨demo_good (sounding_good demoSynth_legal rfl rfl) (by decide), demo_validHandle _ _ rfl, rfl,
    by decide +kernel, by decide +kernel⟩,
    demo_good (sounding_good demoShort_legal rfl rfl) (by decide), demo_validHandle _ _ rfl, rfl,
    by decide +kernel, by decide +kernel⟩

/-- One sample of the playing state: it completes with one frame and the voice sounds on. -/
theorem playing_render : ∃ t f, exec (.render 0 1) playing = .next t ∧
    t.replies = playing.replies ++ [⟨0, [f]⟩] ∧ (t.voice 0).active = true := by
  obtain ⟨a, ha⟩ := produceSample_ok (playing_good.voices 0) rfl
  have sc : schedule Config.hw playing.sampleRate.toNat (playing.voice 0) =
      { playing.voice 0 with
        tickAccumulator := (playing.voice 0).tickAccumulator + 1 / (playing.sampleRate.toNat : ℚ) } :=
    if_neg (not_le.2 playing_clock)
  refine ⟨(playing.setVoice 0 (advancePhase Config.hw
      (schedule Config.hw playing.sampleRate.toNat (playing.voice 0)))).replyWith statusOk
        [scaledFrame (playing.voice 0) a], scaledFrame (playing.voice 0) a, ?_, rfl, ?_⟩
  · have ac : (playing.voice 0).active = true := rfl
    have ha' : produceSample Config.hw
        (schedule Config.hw playing.sampleRate.toNat (playing.voice 0)) = .ok a := by rw [sc]; exact ha
    have ac' : (schedule Config.hw playing.sampleRate.toNat (playing.voice 0)).active = true := by
      rw [sc]; exact ac
    simp only [exec, execRender, renderWith, playing_validHandle, if_true]
    have : (1 : Operand).toNat = 0 + 1 := rfl
    rw [this]
    simp only [renderLoop, ac, if_true, renderSample, ac', ha']
    rw [sc]; rfl
  · rw [replyWith_voice, setVoice_voice_self, sc]; rfl

theorem witness_ChannelsEqual : ∃ t f, exec (.render 0 1) playing = .next t ∧
    t.replies = playing.replies ++ [⟨0, [f]⟩] :=
  let ⟨t, f, h, r, _⟩ := playing_render
  ⟨t, f, h, r⟩

theorem witness_FramesInRange : playing.Good Config.hw ∧
    ∃ t f, exec (.render 0 1) playing = .next t ∧ t.replies = playing.replies ++ [⟨0, [f]⟩] :=
  ⟨playing_good, witness_ChannelsEqual⟩

theorem witness_RenderNeverWakes :
    ∃ t, exec (.render 0 1) playing = .next t ∧ (t.voice 0).active = true :=
  let ⟨t, _, h, _, a⟩ := playing_render
  ⟨t, h, a⟩

theorem render_zero_next (v : Handle) (s : State) : ∃ u, exec (.render v 0) s = .next u := by
  show ∃ u, renderWith Config.hw v 0 s = .next u
  unfold renderWith
  split <;> exact ⟨_, rfl⟩

theorem witness_RenderSplits : (1 : Operand).toNat + (0 : Operand).toNat < 2 ^ 24 ∧
    ∃ t u, exec (.render 0 1) playing = .next t ∧ exec (.render 0 0) t = .next u := by
  obtain ⟨t, _, h, _⟩ := playing_render
  obtain ⟨u, k⟩ := render_zero_next 0 t
  exact ⟨by decide, t, u, h, k⟩

theorem witness_TickClockAdvances : playing.Good Config.hw ∧ validHandle Config.hw playing 0 = true ∧
    ∃ t, exec (.render 0 1) playing = .next t ∧ (t.voice 0).active = true :=
  ⟨playing_good, playing_validHandle, witness_RenderNeverWakes⟩

/-- Each of the four commands, on the sounding voice. -/
theorem witness_TransposeAndEffectUnused :
    (drivesDatapath 0 (.noteOn 0 69 127) ∧ ∃ t, exec (.noteOn 0 69 127) playing = .next t) ∧
    (drivesDatapath 0 (.noteOff 0) ∧ ∃ t, exec (.noteOff 0) playing = .next t) ∧
    (drivesDatapath 0 (.render 0 1) ∧ ∃ t, exec (.render 0 1) playing = .next t) ∧
    (drivesDatapath 0 (.setParam 0 12 3) ∧ ∃ t, exec (.setParam 0 12 3) playing = .next t) := by
  have held : holdsInstrument Config.hw playing 0 = true := by
    simp only [holdsInstrument, playing_validHandle, Bool.true_and]; rfl
  refine ⟨⟨rfl, ?_⟩, ⟨rfl, ?_⟩, ⟨rfl, let ⟨t, _, h, _⟩ := playing_render; ⟨t, h⟩⟩, rfl, ?_⟩
  · simp only [exec, execNoteOn, noteOnWith, held, if_true]; exact ⟨_, rfl⟩
  · have e : (validHandle Config.hw playing 0 && (playing.voice 0).envelopeState.releasable) = true := by
      rw [playing_validHandle]; rfl
    simp only [exec, execNoteOff, noteOffWith, e, if_true]; exact ⟨_, rfl⟩
  · simp only [exec, execSetParam, setParamWith, held, if_true]; exact ⟨_, rfl⟩

theorem playing_held : (playing.voice 0).Held :=
  ⟨rfl, by decide +kernel, rfl, .inl rfl⟩

/-- A step without a command, a step that renders the held note, and RENDER alone; a held PCM note in
every configuration that allows a sample of two bytes. -/
theorem witness_NoteWithoutDurationHolds :
    (playing.Good Config.hw ∧ (playing.voice 0).Held ∧
      (∀ c rest i, playing.commands = c :: rest → decode c = .ok i → ¬ endsNote 0 i) ∧
      step playing = .next playing) ∧
    (State.Good Config.hw { playing with commands := [⟨0x80000001, []⟩] } ∧
      (State.voice { playing with commands := [⟨0x80000001, []⟩] } 0).Held ∧
      (∀ c rest i, (⟨0x80000001, []⟩ :: [] : List HostCommand) = c :: rest → decode c = .ok i →
        ¬ endsNote 0 i) ∧
      ∃ t, step { playing with commands := [⟨0x80000001, []⟩] } = .next t) ∧
    (2 ≤ Config.hw.pcmMaxLen → looping.Good Config.hw ∧ (looping.voice 0).Held) := by
  refine ⟨⟨playing_good, playing_held, fun _ _ _ h => absurd h (List.cons_ne_nil _ _).symm, rfl⟩,
    ⟨⟨playing_good.voices, playing_good.slots, playing_good.rate, playing_good.noContext⟩,
      playing_held, fun c rest i h d => ?_, let ⟨t, _, h, _⟩ := playing_render; ⟨t, h⟩⟩,
    fun h => ⟨looping_good h, rfl, by decide +kernel, rfl, .inr (by decide)⟩⟩
  cases h
  have e : decode ⟨0x80000001, []⟩ = .ok (.render 0 1) := by decide
  rw [e] at d
  cases d
  exact id

/-! ### Envelope, modulation, oscillator -/

theorem witness_EnvelopeTransitions :
    (inState .off).envelopeState = .off ∧ (inState .attack).envelopeState = .attack ∧
    (inState .decay).envelopeState = .decay ∧ (inState .sustain).envelopeState = .sustain ∧
    (inState .release).envelopeState = .release := ⟨rfl, rfl, rfl, rfl, rfl⟩

/-- The voice of the next witness. -/
def attacking : Voice := { inState .attack with envelopeVolume := 0 }

/-- The demo voice at the start of an Attack with a given level and decay length. -/
def attackOf (attackLevel decay : Byte) : Voice :=
  { attacking with
    instrument := { demoSynth with attackLevel := attackLevel, decayLevel := 0, decayLength := decay } }

/-- A ramp of four ticks into Decay; one into Sustain; a level of 0, which ends in its first tick. -/
theorem witness_AttackRamp :
    (∀ level decay, (attackOf level decay).envelopeState = .attack ∧
      (attackOf level decay).envelopeVolume = 0 ∧ (attackOf level decay).envelopeTicks = 0 ∧
      0 < (attackOf level decay).instrument.attackLength.toNat ∧
      (attackOf level decay).instrument.sustainLevel.toNat ≤ 64) ∧
    ((attackOf 64 2).instrument.attackLevel.toNat ≤ 64 ∧ (attackOf 64 2).instrument.decayLength ≠ 0 ∧
      4 = if (attackOf 64 2).instrument.attackLevel = 0 then 1
        else (attackOf 64 2).instrument.attackLength.toNat) ∧
    ((attackOf 64 0).instrument.attackLevel.toNat ≤ 64 ∧ (attackOf 64 0).instrument.decayLength = 0 ∧
      4 = if (attackOf 64 0).instrument.attackLevel = 0 then 1
        else (attackOf 64 0).instrument.attackLength.toNat) ∧
    ((attackOf 0 2).instrument.attackLevel.toNat ≤ 64 ∧ (attackOf 0 2).instrument.decayLength ≠ 0 ∧
      1 = if (attackOf 0 2).instrument.attackLevel = 0 then 1
        else (attackOf 0 2).instrument.attackLength.toNat) :=
  ⟨fun _ _ => ⟨rfl, rfl, rfl, by show 0 < (4 : Byte).toNat; decide, by show (48 : Byte).toNat ≤ 64; decide⟩,
    by decide, by decide, by decide⟩

/-- Vector E3: attack length 3 at level 64, decay length 0, sustain level 64. -/
theorem test_attack_into_sustain :
    let v := { attacking with
      instrument :=
        { Instrument.atReset with attackLength := 3, attackLevel := 64, decayLevel := 64, sustainLevel := 64 } }
    (envTick v).envelopeVolume = 64 / 3 ∧ (envTick^[2] v).envelopeVolume = 128 / 3 ∧
    (envTick^[3] v).envelopeVolume = 64 ∧ (envTick^[3] v).envelopeState = .sustain := by decide +kernel

/-- The voice of the next witness. -/
def decaying : Voice := { inState .decay with envelopeVolume := 64 }

/-- The same where the decay level is the attack level. -/
def decayingFlat : Voice := { decaying with instrument := { demoSynth with decayLevel := 64 } }

theorem witness_DecayRamp :
    (∀ v, v = decaying ∨ v = decayingFlat → v.envelopeState = .decay ∧ v.envelopeTicks = 0 ∧
      v.envelopeVolume = (v.instrument.attackLevel.toNat : ℚ) ∧ 0 < v.instrument.decayLength.toNat ∧
      v.instrument.decayLevel.toNat ≤ v.instrument.attackLevel.toNat ∧
      v.instrument.attackLevel.toNat ≤ 64 ∧ v.instrument.sustainLevel.toNat ≤ 64) ∧
    (2 = if decaying.instrument.decayLevel = decaying.instrument.attackLevel then 1
      else decaying.instrument.decayLength.toNat) ∧
    (1 = if decayingFlat.instrument.decayLevel = decayingFlat.instrument.attackLevel then 1
      else decayingFlat.instrument.decayLength.toNat) := by
  refine ⟨?_, by decide, by decide⟩
  rintro v (rfl | rfl) <;> decide +kernel

/-- `demoSynth` with a Sustain of a given length and a Release of a given length. -/
def sustaining (sustain release : Byte) : Voice :=
  sounding { demoSynth with sustainLength := sustain, releaseLength := release }

theorem witness_SustainLasts :
    (∀ a b, (sustaining a b).envelopeState = .sustain ∧ (sustaining a b).envelopeTicks = 0 ∧
      (sustaining a b).instrument.sustainLevel.toNat ≤ 64) ∧
    (sustaining 0 3).instrument.sustainLength = 0 ∧
    1 + 1 < (sustaining 3 3).instrument.sustainLength.toNat ∧
    ((sustaining 1 3).instrument.sustainLength ≠ 0 ∧ (sustaining 1 3).instrument.releaseLength ≠ 0) ∧
    ((sustaining 1 0).instrument.sustainLength ≠ 0 ∧ (sustaining 1 0).instrument.releaseLength = 0) :=
  ⟨fun a b => ⟨rfl, rfl, by show (48 : Byte).toNat ≤ 64; decide⟩, by decide, by decide, by decide, by decide⟩

/-- A Release entered at the sustain level 48, of three ticks: on the line after two, at its end after
three; and one entered at volume 10, whose line ends in its first tick. -/
theorem witness_ReleaseEnds :
    ((inState .release).envelopeState = .release ∧ (inState .release).envelopeTicks = 0 ∧
      0 ≤ (inState .release).envelopeVolume ∧ 0 < (inState .release).instrument.releaseLength.toNat ∧
      (inState .release).envelopeVolume ≤ 64 ∧ 2 < (inState .release).instrument.releaseLength.toNat ∧
      0 < (inState .release).envelopeVolume -
        (2 : ℕ) * (((inState .release).instrument.sustainLevel.toNat : ℚ)
          / (inState .release).instrument.releaseLength.toNat) ∧
      (inState .release).instrument.releaseLength.toNat ≤ 3 ∧
      (inState .release).envelopeVolume = (inState .release).instrument.sustainLevel.toNat ∧
      0 < (inState .release).instrument.sustainLevel.toNat ∧
      (inState .release).instrument.sustainLevel.toNat ≤ 64) ∧
    ((0 : ℚ) ≤ 10 ∧ (10 : ℚ) - (1 : ℕ) * (((inState .release).instrument.sustainLevel.toNat : ℚ)
      / (inState .release).instrument.releaseLength.toNat) ≤ 0) := by
  decide +kernel

/-- A voice at phase 0 of the LFO with two ticks of delay left. -/
def delayed : Voice := { sounding demoSynth with vibratoDelayRemaining := 2 }

theorem witness_VibratoDelayThenAdvance :
    0 ≤ delayed.vibratoPhase ∧ delayed.vibratoPhase < 1 ∧ 2 ≤ delayed.vibratoDelayRemaining := by
  decide +kernel

/-- An arpeggio of length 0, and one of length 16 at its last entry. -/
def arpeggiating : Voice := { sounding { demoSynth with arpeggioLength := 16 } with arpeggioIndex := 15 }

theorem witness_ArpeggioCycles :
    (sounding demoSynth).instrument.arpeggioLength = 0 ∧
    0 < arpeggiating.instrument.arpeggioLength.toNat ∧ arpeggiating.instrument.arpeggioLength.toNat ≤ 16 ∧
    arpeggiating.arpeggioIndex.val < arpeggiating.instrument.arpeggioLength.toNat := by
  decide +kernel

/-- Both kinds; an arpeggio of length 0 and one at its last entry; depth and finetune 0. -/
theorem witness_ZeroDepthNoOffset :
    (sounding demoSynth).instrument.kind = .wavetableSynth ∧
    (sounding demoPcm).instrument.kind = .pcmSample ∧
    (sounding demoSynth).instrument.arpeggioLength = 0 ∧ arpeggiating.instrument.arpeggioLength ≠ 0 ∧
    (sounding demoSynth).instrument.vibratoDepth = 0 ∧ (sounding demoSynth).instrument.finetune = 0 := by
  decide

/-- The demo voice with a sequencer of a given speed and length. -/
def sequencing (speed length : Byte) : Voice :=
  sounding { demoSynth with sequencerSpeed := speed, sequencerLength := length }

/-- The sequencer disabled by its speed and by its length; at the start of a note with two ticks to the
first entry; and with one. -/
theorem witness_SequencerCycles :
    ((sequencing 0 16).instrument.sequencerLength.toNat ≤ 16 ∧
      (sequencing 0 16).instrument.sequencerSpeed = 0) ∧
    ((sequencing 2 0).instrument.sequencerLength.toNat ≤ 16 ∧
      (sequencing 2 0).instrument.sequencerLength = 0) ∧
    ((sequencing 2 16).instrument.sequencerLength.toNat ≤ 16 ∧
      (sequencing 2 16).instrument.sequencerSpeed ≠ 0 ∧ (sequencing 2 16).instrument.sequencerLength ≠ 0 ∧
      (sequencing 2 16).sequencerTickCounter + 1 < (sequencing 2 16).instrument.sequencerSpeed.toNat ∧
      (sequencing 2 16).sequencerTickCounter = 0 ∧ (sequencing 2 16).sequencerStep = 0 ∧
      1 < (sequencing 2 16).instrument.sequencerSpeed.toNat) ∧
    (sequencing 1 16).instrument.sequencerSpeed.toNat ≤ (sequencing 1 16).sequencerTickCounter + 1 ∧
    (sequencing 1 16).instrument.sequencerSpeed ≠ 0 ∧ (sequencing 1 16).instrument.sequencerLength ≠ 0 := by
  decide +kernel

theorem witness_PcmModulationIdle :
    (sounding demoPcm).instrument.Legal Config.hw ∧ (sounding demoPcm).instrument.kind = .pcmSample ∧
    (sounding demoPcm).vibratoPhase = 0 ∧ (sounding demoPcm).vibratoDelayRemaining = 0 :=
  ⟨demoPcm_legal, rfl, rfl, rfl⟩

theorem witness_WavetableAdvance :
    (sounding demoSynth).instrument.kind = .wavetableSynth ∧ 0 ≤ (sounding demoSynth).oscillatorPhase ∧
    0 ≤ (sounding demoSynth).phaseIncrement := ⟨rfl, le_rfl, le_rfl⟩

/-- A PCM voice of four bytes with a loop at start 1, at a phase and with increment 1. -/
def pcmAt (loop : Word) (phase : ℚ) : Voice :=
  { sounding { demoPcm with sampleLength := 4, loopStart := 1, loopLength := loop } with
    oscillatorPhase := phase, phaseIncrement := 1 }

/-- The last phase before the loop end, and the loop end itself. -/
theorem witness_PcmLoopAdvance :
    (pcmAt 2 1).instrument.kind = .pcmSample ∧ 1 < (pcmAt 2 1).instrument.loopLength.toNat ∧
    (pcmAt 2 1).oscillatorPhase + (pcmAt 2 1).phaseIncrement < loopEnd (pcmAt 2 1).instrument ∧
    (loopEnd (pcmAt 2 2).instrument : ℚ) ≤ (pcmAt 2 2).oscillatorPhase + (pcmAt 2 2).phaseIncrement := by
  decide +kernel

/-- A loop of length 1 does not loop: the last byte, and the end. -/
theorem witness_PcmEndStops :
    (pcmAt 1 2).instrument.kind = .pcmSample ∧ (pcmAt 1 2).instrument.loopLength.toNat ≤ 1 ∧
    (pcmAt 1 2).oscillatorPhase + (pcmAt 1 2).phaseIncrement <
      (pcmAt 1 2).instrument.sampleLength.toNat ∧
    ((pcmAt 1 3).instrument.sampleLength.toNat : ℚ) ≤
      (pcmAt 1 3).oscillatorPhase + (pcmAt 1 3).phaseIncrement := by
  decide +kernel

end Sys2Proof.Tests
end

/-! PROOFS of the family 10_state: the reset state, the invariant that every step keeps, and the
confinement of a command to the voice it is addressed to. -/

namespace Sys2Proof.Proofs

open Sys2Proof.Machine Sys2Proof.Laws

/-! ## One step -/

/-- All that a step that answers a next state can do: wait, perform the command that decodes, or answer
a reserved opcode (20_memory.md R71, 30_encoding.md R85). -/
theorem step_cases {s t : State} (h : step s = .next t) :
    (s.commands = [] ∧ t = s) ∨
    ∃ c rest, s.commands = c :: rest ∧
      ((∃ i, decode c = .ok i ∧ exec i { s with commands := rest } = .next t) ∨
        (decode c = .error .reservedOpcode ∧
          t = State.respond { s with commands := rest } errBadCommand)) := by
  unfold step fetch? at h
  cases hc : s.commands with
  | nil =>
    simp only [hc, Host.Outcome.next.injEq] at h
    exact .inl ⟨rfl, h.symm⟩
  | cons c rest =>
    refine .inr ⟨c, rest, rfl, ?_⟩
    simp only [hc] at h
    cases hd : decode c with
    | ok i =>
      simp only [hd] at h
      exact .inl ⟨i, rfl, h⟩
    | error e =>
      simp only [hd] at h
      cases e with
      | reservedOpcode =>
        simp only [rejectCommand, Host.Outcome.next.injEq] at h
        exact .inr ⟨rfl, h.symm⟩
      | payloadLength => simp [rejectCommand] at h

/-- A valid handle that holds an instrument is a valid handle of a loaded voice (10_state.md R46). -/
theorem holdsInstrument_spec {cfg : Config} {s : State} {v : Handle}
    (h : holdsInstrument cfg s v = true) :
    validHandle cfg s v = true ∧ (s.voice v).loaded = true := by
  simpa [holdsInstrument] using h

/-! ## Reset (10_state.md R45) -/

theorem atReset_slotReset : Voice.atReset.SlotReset :=
  ⟨⟨rfl, rfl, rfl, rfl, rfl, rfl, rfl, rfl, rfl, rfl, rfl, rfl, rfl, rfl⟩, rfl, rfl⟩

/-- Settles O9: every slot of the reset state is the power-on slot. -/
theorem resetState : Obligations.ResetState := by
  refine ⟨rfl, rfl, fun v => ?_⟩
  rw [reset_voice]
  exact ⟨rfl, atReset_slotReset⟩

/-- The reset state is good under every configuration R6 to R8 allow. -/
theorem reset_good {cfg : Config} (adm : cfg.Admissible) : State.reset.Good cfg where
  voices v := by rw [reset_voice]; exact atReset_good adm
  slots v _ := by rw [reset_voice]; rfl
  rate h := Bool.noConfusion h
  noContext _ := ⟨rfl, fun v => by rw [reset_voice]; rfl⟩

/-- Settles O10. -/
theorem resetIsGood : Obligations.ResetIsGood := reset_good hw_admissible

/-! ## What each update of the state does to the invariant (10_state.md R41) -/

/-- The invariant speaks of the Context registers and the voice slots only. -/
theorem good_of_same {cfg : Config} {s t : State} (g : s.Good cfg) (hval : t.valid = s.valid)
    (hrate : t.sampleRate = s.sampleRate) (hvoice : ∀ v, t.voice v = s.voice v) : t.Good cfg where
  voices v := by rw [hvoice]; exact g.voices v
  slots v := by rw [hvoice]; exact g.slots v
  rate := by rw [hval, hrate]; exact g.rate
  noContext h := by
    obtain ⟨hr, ha⟩ := g.noContext (hval ▸ h)
    exact ⟨hrate.trans hr, fun v => by rw [hvoice]; exact ha v⟩

/-- Taking a command from the list (20_memory.md R71). -/
theorem taken_good {cfg : Config} {s : State} (g : s.Good cfg) (rest : List HostCommand) :
    State.Good cfg { s with commands := rest } :=
  good_of_same g rfl rfl fun _ => rfl

theorem replyWith_good {cfg : Config} {s : State} (g : s.Good cfg) (r : Word) (fs : List Frame) :
    (s.replyWith r fs).Good cfg :=
  good_of_same g rfl rfl fun _ => rfl

theorem respond_good {cfg : Config} {s : State} (g : s.Good cfg) (r : Word) :
    (s.respond r).Good cfg :=
  replyWith_good g r []

/-- Writing a good voice to a slot the block has, while there is a Context. -/
theorem setVoice_good {cfg : Config} {s : State} (g : s.Good cfg) {v : Handle} {x : Voice}
    (hval : s.valid = true) (hlt : v.toNat < cfg.nvoices) (gx : x.Good cfg) :
    (s.setVoice v x).Good cfg where
  voices u := by
    rw [setVoice_voice]
    split
    · exact gx
    · exact g.voices u
  slots u hu := by
    have ne : u ≠ v := fun e => by subst e; omega
    rw [setVoice_voice_ne _ _ _ _ ne]
    exact g.slots u hu
  rate := g.rate
  noContext h := Bool.noConfusion (hval.symm.trans h)

/-- VoiceReset of a slot the block has, while there is a Context. -/
theorem resetSlot_good {cfg : Config} (adm : cfg.Admissible) {s : State} (g : s.Good cfg)
    {v : Handle} (hval : s.valid = true) (hlt : v.toNat < cfg.nvoices) (allocated : Bool) :
    (s.resetSlot v allocated).Good cfg :=
  good_of_same (setVoice_good g hval hlt (voiceReset_good adm _ (s.voice v) allocated)) rfl rfl
    fun _ => rfl

/-- A state with every slot free is good when its Context registers agree (R20). -/
theorem freeAllSlots_good {cfg : Config} (adm : cfg.Admissible) (s : State) {valid : Bool}
    {rate : Operand} (hrate : valid = true → tickHz ≤ rate.toNat)
    (hnone : valid = false → rate = 0) :
    State.Good cfg { s.freeAllSlots with sampleRate := rate, valid := valid } := by
  have slot : ∀ v, State.voice { s.freeAllSlots with sampleRate := rate, valid := valid } v =
      freeSlot (s.unspecifiedDraws + v.toNat) (s.voice v) := freeAllSlots_voice s
  have free : ∀ v, (State.voice
      { s.freeAllSlots with sampleRate := rate, valid := valid } v).allocated = false :=
    fun v => by rw [slot]; rfl
  exact
    { voices := fun v => by rw [slot]; exact voiceReset_good adm _ _ false
      slots := fun v _ => free v
      rate := hrate
      noContext := fun h => ⟨hnone h, free⟩ }

/-! ## Every command keeps the invariant -/

/-- Where an outcome is a next state, that state is good. -/
def GoodOutcome (cfg : Config) : Host.Outcome State Fault Refusal → Prop
  | .next t => t.Good cfg
  | .fault _ => True
  | .refused _ => True

section
variable {cfg : Config} {s : State}

theorem execInit_good (adm : cfg.Admissible) (g : s.Good cfg) (rate : Operand) :
    GoodOutcome cfg (execInit rate s) := by
  unfold execInit
  split
  · exact respond_good g _
  · rename_i hr
    exact respond_good (freeAllSlots_good adm s (fun _ => not_lt.mp hr) Bool.noConfusion) _

theorem execDispose_good (adm : cfg.Admissible) (g : s.Good cfg) :
    GoodOutcome cfg (execDispose s) := by
  unfold execDispose
  split
  · exact respond_good (freeAllSlots_good adm s Bool.noConfusion fun _ => rfl) _
  · exact respond_good g _

theorem createVoiceWith_good (adm : cfg.Admissible) (g : s.Good cfg) :
    GoodOutcome cfg (createVoiceWith cfg s) := by
  unfold createVoiceWith
  split
  · rename_i hval
    split
    · rename_i v hv
      exact respond_good (resetSlot_good adm g hval (freeHandle?_some hv).1 true) _
    · exact respond_good g _
  · exact respond_good g _

theorem destroyVoiceWith_good (adm : cfg.Admissible) (g : s.Good cfg) (v : Handle) :
    GoodOutcome cfg (destroyVoiceWith cfg v s) := by
  unfold destroyVoiceWith
  split
  · rename_i hv
    obtain ⟨hval, hlt, _⟩ := validHandle_spec hv
    exact respond_good (resetSlot_good adm g hval hlt false) _
  · exact respond_good g _

theorem loadInstrumentWith_good (adm : cfg.Admissible) (g : s.Good cfg) (v : Handle)
    (payload : List Byte) : GoodOutcome cfg (loadInstrumentWith cfg v payload s) := by
  unfold loadInstrumentWith
  split
  · rename_i hv
    obtain ⟨hval, hlt, hal⟩ := validHandle_spec hv
    split
    · exact respond_good g _
    · rename_i x sram hp
      exact respond_good (setVoice_good g hval hlt (loadVoice_good adm hp (g.voices v) hal)) _
  · exact respond_good g _

theorem noteOnWith_good (adm : cfg.Admissible) (g : s.Good cfg) (v : Handle)
    (note velocity : SevenBit) : GoodOutcome cfg (noteOnWith cfg v note velocity s) := by
  unfold noteOnWith
  split
  · rename_i hv
    obtain ⟨hvalid, hld⟩ := holdsInstrument_spec hv
    obtain ⟨hval, hlt, _⟩ := validHandle_spec hvalid
    exact respond_good
      (setVoice_good g hval hlt (startNote_good adm _ note velocity (g.voices v) hld)) _
  · exact respond_good g _

theorem noteOffWith_good (g : s.Good cfg) (v : Handle) :
    GoodOutcome cfg (noteOffWith cfg v s) := by
  unfold noteOffWith
  split
  · rename_i hv
    obtain ⟨hvalid, hrel⟩ := Bool.and_eq_true_iff.mp hv
    obtain ⟨hval, hlt, _⟩ := validHandle_spec hvalid
    exact respond_good (setVoice_good g hval hlt (enterRelease_good (g.voices v) hrel)) _
  · exact respond_good g _

/-- RENDER needs the legal rate of the Context: a sample period is at most a tick period (R192). -/
theorem renderWith_good (adm : cfg.Admissible) (g : s.Good cfg) (v : Handle) (n : Operand) :
    GoodOutcome cfg (renderWith cfg v n s) := by
  unfold renderWith
  split
  · rename_i hv
    obtain ⟨hval, hlt, _⟩ := validHandle_spec hv
    obtain ⟨w, frames, hloop, _, gw⟩ := renderLoop_good adm (g.rate hval) n.toNat (g.voices v)
    rw [hloop]
    exact replyWith_good (setVoice_good g hval hlt gw) _ _
  · exact respond_good g _

theorem setParamWith_good (g : s.Good cfg) (v : Handle) (index : Byte) (value : BitVec 16) :
    GoodOutcome cfg (setParamWith cfg v index value s) := by
  unfold setParamWith
  split
  · rename_i hv
    obtain ⟨hvalid, hld⟩ := holdsInstrument_spec hv
    obtain ⟨hval, hlt, _⟩ := validHandle_spec hvalid
    exact respond_good (setVoice_good g hval hlt (writeParam_good (g.voices v) hld index value)) _
  · exact respond_good g _

theorem getParamWith_good (g : s.Good cfg) (v : Handle) (index : Byte) :
    GoodOutcome cfg (getParamWith cfg v index s) := by
  unfold getParamWith
  split <;> exact respond_good g _

end

theorem exec_good {s : State} (g : s.Good Config.hw) (i : Instr) :
    GoodOutcome Config.hw (exec i s) := by
  cases i with
  | init rate => exact execInit_good hw_admissible g rate
  | dispose => exact execDispose_good hw_admissible g
  | createVoice => exact createVoiceWith_good hw_admissible g
  | destroyVoice v => exact destroyVoiceWith_good hw_admissible g v
  | loadInstrument v payload => exact loadInstrumentWith_good hw_admissible g v payload
  | noteOn v note velocity => exact noteOnWith_good hw_admissible g v note velocity
  | noteOff v => exact noteOffWith_good g v
  | render v n => exact renderWith_good hw_admissible g v n
  | setParam v index value => exact setParamWith_good g v index value
  | getParam v index => exact getParamWith_good g v index

/-- Settles O11, from what each command does to a good state. -/
theorem stepKeepsGood : Obligations.StepKeepsGood := by
  intro s t g h
  rcases step_cases h with ⟨_, rfl⟩ | ⟨c, rest, _, ⟨i, _, hexec⟩ | ⟨_, rfl⟩⟩
  · exact g
  · have out := exec_good (taken_good g rest) i
    rwa [hexec] at out
  · exact respond_good (taken_good g rest) _

/-! ## A command addressed to a voice (10_state.md R59, R20)

Two runs are compared: what the command does in `s`, and in an `s'` that looks the same to it. -/

/-- `s'` looks like `s` to a command addressed to voice v: the Context registers, the voice, and the
counter of free values (log 6). -/
structure SameView (v : Handle) (s s' : State) : Prop where
  valid : s'.valid = s.valid
  sampleRate : s'.sampleRate = s.sampleRate
  voice : s'.voice v = s.voice v
  draws : s'.unspecifiedDraws = s.unspecifiedDraws

theorem SameView.refl (v : Handle) (s : State) : SameView v s s := ⟨rfl, rfl, rfl, rfl⟩

/-- The two outcomes of a command addressed to voice v: both a next state, with the same voice v and
the same reply and nothing else written in the first, or both the same fault. -/
inductive Paired (v : Handle) (s s' : State) :
    Host.Outcome State Fault Refusal → Host.Outcome State Fault Refusal → Prop
  | next {t t' : State} (r : Reply) (kept : KeptBut v s t) (voice : t'.voice v = t.voice v)
      (replies : t.replies = s.replies ++ [r]) (replies' : t'.replies = s'.replies ++ [r]) :
      Paired v s s' (.next t) (.next t')
  | fault (e : Fault) : Paired v s s' (.fault e) (.fault e)

section
variable {v : Handle} {s s' : State}

theorem respond_paired (h : SameView v s s') (r : Word) :
    Paired v s s' (.next (s.respond r)) (.next (s'.respond r)) :=
  .next ⟨r, []⟩ ⟨rfl, rfl, fun _ _ => rfl, rfl⟩ h.voice rfl rfl

theorem setVoice_paired (v : Handle) (s s' : State) (x : Voice) (r : Word) (fs : List Frame) :
    Paired v s s' (.next ((s.setVoice v x).replyWith r fs))
      (.next ((s'.setVoice v x).replyWith r fs)) :=
  .next ⟨r, fs⟩ ⟨rfl, rfl, fun u ne => setVoice_voice_ne s u v x ne, rfl⟩ (by simp) rfl rfl

theorem resetSlot_paired (h : SameView v s s') (allocated : Bool) (r : Word) :
    Paired v s s' (.next ((s.resetSlot v allocated).respond r))
      (.next ((s'.resetSlot v allocated).respond r)) :=
  .next ⟨r, []⟩ ⟨rfl, rfl, fun u ne => resetSlot_voice_ne s u v allocated ne, rfl⟩
    (by simp [h.voice, h.draws]) rfl rfl

theorem SameView.validHandle_eq (h : SameView v s s') (cfg : Config) :
    validHandle cfg s' v = validHandle cfg s v := by
  unfold validHandle
  rw [h.valid, h.voice]

theorem SameView.holdsInstrument_eq (h : SameView v s s') (cfg : Config) :
    holdsInstrument cfg s' v = holdsInstrument cfg s v := by
  unfold holdsInstrument
  rw [h.validHandle_eq, h.voice]

/-! Each command tests and reads only what the two states share, and then takes one of the branches
above in both. -/

theorem destroyVoiceWith_paired (h : SameView v s s') (cfg : Config) :
    Paired v s s' (destroyVoiceWith cfg v s) (destroyVoiceWith cfg v s') := by
  unfold destroyVoiceWith
  rw [h.validHandle_eq]
  split
  · exact resetSlot_paired h false _
  · exact respond_paired h _

theorem loadInstrumentWith_paired (h : SameView v s s') (cfg : Config) (payload : List Byte) :
    Paired v s s' (loadInstrumentWith cfg v payload s) (loadInstrumentWith cfg v payload s') := by
  unfold loadInstrumentWith
  rw [h.validHandle_eq, h.voice]
  split
  · cases parse cfg payload with
    | error code => exact respond_paired h code
    | ok loaded => exact setVoice_paired v s s' _ _ _
  · exact respond_paired h _

theorem noteOnWith_paired (h : SameView v s s') (cfg : Config) (note velocity : SevenBit) :
    Paired v s s' (noteOnWith cfg v note velocity s) (noteOnWith cfg v note velocity s') := by
  unfold noteOnWith
  rw [h.holdsInstrument_eq, h.sampleRate, h.voice]
  split
  · exact setVoice_paired v s s' _ _ _
  · exact respond_paired h _

theorem noteOffWith_paired (h : SameView v s s') (cfg : Config) :
    Paired v s s' (noteOffWith cfg v s) (noteOffWith cfg v s') := by
  unfold noteOffWith
  rw [h.validHandle_eq, h.voice]
  split
  · exact setVoice_paired v s s' _ _ _
  · exact respond_paired h _

theorem renderWith_paired (h : SameView v s s') (cfg : Config) (n : Operand) :
    Paired v s s' (renderWith cfg v n s) (renderWith cfg v n s') := by
  unfold renderWith
  rw [h.validHandle_eq, h.sampleRate, h.voice]
  split
  · cases renderLoop cfg s.sampleRate.toNat n.toNat (s.voice v) with
    | error e => exact .fault e
    | ok rendered => exact setVoice_paired v s s' _ _ _
  · exact respond_paired h _

theorem setParamWith_paired (h : SameView v s s') (cfg : Config) (index : Byte)
    (value : BitVec 16) :
    Paired v s s' (setParamWith cfg v index value s) (setParamWith cfg v index value s') := by
  unfold setParamWith
  rw [h.holdsInstrument_eq, h.voice]
  split
  · exact setVoice_paired v s s' _ _ _
  · exact respond_paired h _

theorem getParamWith_paired (h : SameView v s s') (cfg : Config) (index : Byte) :
    Paired v s s' (getParamWith cfg v index s) (getParamWith cfg v index s') := by
  unfold getParamWith
  rw [h.holdsInstrument_eq, h.voice]
  split <;> exact respond_paired h _

theorem exec_paired {i : Instr} (target : targetVoice i = some v) (h : SameView v s s') :
    Paired v s s' (exec i s) (exec i s') := by
  cases i with
  | init rate => cases target
  | dispose => cases target
  | createVoice => cases target
  | destroyVoice u => cases target; exact destroyVoiceWith_paired h Config.hw
  | loadInstrument u payload => cases target; exact loadInstrumentWith_paired h Config.hw payload
  | noteOn u note velocity => cases target; exact noteOnWith_paired h Config.hw note velocity
  | noteOff u => cases target; exact noteOffWith_paired h Config.hw
  | render u n => cases target; exact renderWith_paired h Config.hw n
  | setParam u index value => cases target; exact setParamWith_paired h Config.hw index value
  | getParam u index => cases target; exact getParamWith_paired h Config.hw index

/-- What a pair says when the first outcome is a next state. -/
theorem Paired.of_next {t : State} {o : Host.Outcome State Fault Refusal}
    (p : Paired v s s' (.next t) o) :
    KeptBut v s t ∧ ∃ t' r, o = .next t' ∧ t'.voice v = t.voice v ∧
      t.replies = s.replies ++ [r] ∧ t'.replies = s'.replies ++ [r] := by
  cases p with
  | next r kept voice replies replies' => exact ⟨kept, _, r, rfl, voice, replies, replies'⟩

end

/-- Settles O17: the frame is the pairing of a run with itself, the agreement that of the two runs. -/
theorem commandConfinedToItsVoice : Obligations.CommandConfinedToItsVoice := by
  intro i v s t target hexec
  have pair : ∀ s', SameView v s s' → Paired v s s' (.next t) (exec i s') := fun s' view =>
    hexec ▸ exec_paired target view
  exact ⟨(pair s (.refl v s)).of_next.1,
    fun s' valid rate voice draws => (pair s' ⟨valid, rate, voice, draws⟩).of_next.2⟩

end Sys2Proof.Proofs

/-! PROOFS of the family 20_memory: the step runs the decoded command, no step from a good state faults,
and every step keeps every sample RAM in canonical form. -/

namespace Sys2Proof.Proofs

open Sys2Proof.Machine Sys2Proof.Laws

/-! ## The equations of the step (20_memory.md R71, 70_reset_and_hazards.md R270) -/

section
variable {s : State} {c : HostCommand} {rest : List HostCommand}

theorem step_of_no_command (h : s.commands = []) : step s = .next s := by
  simp [step, fetch?, h]

theorem step_of_decode_ok {i : Instr} (h : s.commands = c :: rest) (hd : decode c = .ok i) :
    step s = exec i { s with commands := rest } := by
  simp [step, fetch?, h, hd]

theorem step_of_decode_error {e : DecodeError} (h : s.commands = c :: rest)
    (hd : decode c = .error e) : step s = rejectCommand e { s with commands := rest } := by
  simp [step, fetch?, h, hd]

end

/-- Settles O7. -/
theorem stepRunsDecodedInstruction : Obligations.StepRunsDecodedInstruction :=
  fun _ _ _ _ hcommands hdecode _ => step_of_decode_ok hcommands hdecode

/-! ## No step from a good state faults (20_memory.md R62, R63; 43_oscillator.md R179)

RENDER alone reads a wave or a sample byte, so every other command ends in a next state whatever the
state is; from a good state RENDER does too, because its loop reads inside the memories. -/

theorem exec_next_of_not_render {i : Instr} (s : State) (h : ∀ v n, i ≠ .render v n) :
    ∃ t, exec i s = .next t := by
  cases i with
  | init rate => simp only [exec, execInit]; split <;> exact ⟨_, rfl⟩
  | dispose => simp only [exec, execDispose]; split <;> exact ⟨_, rfl⟩
  | createVoice =>
    simp only [exec, execCreateVoice, createVoiceWith]
    split
    · split <;> exact ⟨_, rfl⟩
    · exact ⟨_, rfl⟩
  | destroyVoice v =>
    simp only [exec, execDestroyVoice, destroyVoiceWith]; split <;> exact ⟨_, rfl⟩
  | loadInstrument v payload =>
    simp only [exec, execLoadInstrument, loadInstrumentWith]
    split
    · split <;> exact ⟨_, rfl⟩
    · exact ⟨_, rfl⟩
  | noteOn v note velocity => simp only [exec, execNoteOn, noteOnWith]; split <;> exact ⟨_, rfl⟩
  | noteOff v => simp only [exec, execNoteOff, noteOffWith]; split <;> exact ⟨_, rfl⟩
  | render v n => exact absurd rfl (h v n)
  | setParam v index value =>
    simp only [exec, execSetParam, setParamWith]; split <;> exact ⟨_, rfl⟩
  | getParam v index => simp only [exec, execGetParam, getParamWith]; split <;> exact ⟨_, rfl⟩

/-- RENDER on a good state completes: a valid handle has a Context, whose rate is legal, and the loop
then faults at no sample. -/
theorem renderWith_next {cfg : Config} (adm : cfg.Admissible) {s : State} (g : s.Good cfg)
    (v : Handle) (n : Operand) : ∃ t, renderWith cfg v n s = .next t := by
  unfold renderWith
  split
  · rename_i hv
    obtain ⟨hvalid, _, _⟩ := validHandle_spec hv
    obtain ⟨w, frames, hloop, _, _⟩ := renderLoop_good adm (g.rate hvalid) n.toNat (g.voices v)
    rw [hloop]
    exact ⟨_, rfl⟩
  · exact ⟨_, rfl⟩

theorem exec_next_of_good {s : State} (g : s.Good Config.hw) (i : Instr) :
    ∃ t, exec i s = .next t := by
  by_cases h : ∃ v n, i = .render v n
  · obtain ⟨v, n, rfl⟩ := h
    exact renderWith_next hw_admissible g v n
  · exact exec_next_of_not_render s fun v n hi => h ⟨v, n, hi⟩

theorem rejectCommand_ne_fault (e : DecodeError) (s : State) (f : Fault) :
    rejectCommand e s ≠ .fault f := by
  cases e <;> simp [rejectCommand]

/-- Settles O12: waiting and rejecting never fault, and a command on a good state has a next state. -/
theorem goodStepIsSafe : Obligations.GoodStepIsSafe := by
  intro s g f
  cases hc : s.commands with
  | nil => simp [step_of_no_command hc]
  | cons c rest =>
    cases hd : decode c with
    | ok i =>
      obtain ⟨t, ht⟩ := exec_next_of_good (taken_good g rest) i
      simp [step_of_decode_ok hc hd, ht]
    | error e =>
      rw [step_of_decode_error hc hd]
      exact rejectCommand_ne_fault e _ f

/-! ## What a command does to the sample RAMs (20_memory.md R62, log 5) -/

/-- All that a command can do to the sample RAM of one slot: no command writes a single byte. -/
inductive MemoryChange (m : Memory) : Memory → Prop
  | kept : MemoryChange m m
  | forgotten : MemoryChange m Memory.unspecified
  | loaded (bytes : List Byte) : MemoryChange m (Memory.load bytes)

theorem MemoryChange.of_eq {m m' : Memory} (h : m' = m) : MemoryChange m m' := h ▸ .kept

theorem MemoryChange.wf {m m' : Memory} (h : MemoryChange m m') (hm : Memory.wf m = true) :
    Memory.wf m' = true := by
  cases h with
  | kept => exact hm
  | forgotten => exact unspecified_wf
  | loaded bytes => exact load_wf bytes

/-- Where an outcome is a next state, each slot's sample RAM changed in one of the three ways. -/
def MemoryOutcome (s : State) : Host.Outcome State Fault Refusal → Prop
  | .next t => ∀ v, MemoryChange (s.voice v).sram (t.voice v).sram
  | .fault _ => True
  | .refused _ => True

theorem MemoryOutcome.memoryCanonical {s t : State} (h : MemoryOutcome s (.next t))
    (hs : s.MemoryCanonical) : t.MemoryCanonical := fun v => (h v).wf (hs v)

theorem parse_memory {cfg : Config} {p : List Byte} {x : Instrument} {m' : Memory}
    (h : parse cfg p = .ok (x, m')) (m : Memory) : MemoryChange m m' := by
  rcases parse_cases h with ⟨_, _, _, rfl⟩ | ⟨_, _, _, _, _, rfl⟩
  · exact .forgotten
  · exact .loaded _

theorem endIfEmpty_sram (x : Voice) : (endIfEmpty x).sram = x.sram := by
  unfold endIfEmpty
  split
  · exact (forceOff_frame x).sram
  · rfl

theorem startNote_sram (cfg : Config) (rate : Nat) (note velocity : SevenBit) (x : Voice) :
    (startNote cfg rate note velocity x).sram = x.sram :=
  calc (startNote cfg rate note velocity x).sram
      = (endIfEmpty (enterAttack (noteStart note velocity x))).sram :=
        (recompute_frame cfg rate _).sram
    _ = (enterAttack (noteStart note velocity x)).sram := endIfEmpty_sram _
    _ = (noteStart note velocity x).sram := (enterAttack_frame _).sram
    _ = x.sram := rfl

/-! A command writes no slot, one slot, or every slot. -/

section
variable (cfg : Config) (s : State) (v : Handle)

theorem respond_memory (r : Word) : MemoryOutcome s (.next (s.respond r)) := fun _ => .kept

theorem setVoice_memory {s : State} {v : Handle} {x : Voice}
    (h : MemoryChange (s.voice v).sram x.sram) (r : Word) (fs : List Frame) :
    MemoryOutcome s (.next ((s.setVoice v x).replyWith r fs)) := by
  intro u
  rw [replyWith_voice, setVoice_voice]
  split
  · rename_i hu
    rw [hu]
    exact h
  · exact .kept

theorem resetSlot_memory (allocated : Bool) (r : Word) :
    MemoryOutcome s (.next ((s.resetSlot v allocated).respond r)) :=
  setVoice_memory .forgotten r []

/-- INIT and DISPOSE free every slot and then write Context registers only (R211, R212). -/
theorem freeAllSlots_memory (valid : Bool) (rate : Operand) (r : Word) :
    MemoryOutcome s
      (.next (State.respond { s.freeAllSlots with sampleRate := rate, valid := valid } r)) := by
  intro u
  have slot : State.voice { s.freeAllSlots with sampleRate := rate, valid := valid } u =
      freeSlot (s.unspecifiedDraws + u.toNat) (s.voice u) := freeAllSlots_voice s u
  rw [respond_voice, slot]
  exact .forgotten

theorem execInit_memory (rate : Operand) : MemoryOutcome s (execInit rate s) := by
  unfold execInit
  split
  · exact respond_memory s _
  · exact freeAllSlots_memory s true rate _

theorem execDispose_memory : MemoryOutcome s (execDispose s) := by
  unfold execDispose
  split
  · exact freeAllSlots_memory s false 0 _
  · exact respond_memory s _

theorem createVoiceWith_memory : MemoryOutcome s (createVoiceWith cfg s) := by
  unfold createVoiceWith
  split
  · split
    · exact resetSlot_memory s _ true _
    · exact respond_memory s _
  · exact respond_memory s _

theorem destroyVoiceWith_memory : MemoryOutcome s (destroyVoiceWith cfg v s) := by
  unfold destroyVoiceWith
  split
  · exact resetSlot_memory s v false _
  · exact respond_memory s _

theorem loadInstrumentWith_memory (payload : List Byte) :
    MemoryOutcome s (loadInstrumentWith cfg v payload s) := by
  unfold loadInstrumentWith
  split
  · split
    · exact respond_memory s _
    · rename_i hp
      exact setVoice_memory (parse_memory hp _) _ []
  · exact respond_memory s _

theorem noteOnWith_memory (note velocity : SevenBit) :
    MemoryOutcome s (noteOnWith cfg v note velocity s) := by
  unfold noteOnWith
  split
  · exact setVoice_memory (.of_eq (startNote_sram cfg _ note velocity _)) _ []
  · exact respond_memory s _

theorem noteOffWith_memory : MemoryOutcome s (noteOffWith cfg v s) := by
  unfold noteOffWith
  split
  · exact setVoice_memory (.of_eq (enterRelease_frame _).sram) _ []
  · exact respond_memory s _

theorem renderWith_memory (n : Operand) : MemoryOutcome s (renderWith cfg v n s) := by
  unfold renderWith
  split
  · split
    · trivial
    · rename_i hloop
      exact setVoice_memory (.of_eq (renderLoop_frame hloop).sram) _ _
  · exact respond_memory s _

theorem setParamWith_memory (index : Byte) (value : BitVec 16) :
    MemoryOutcome s (setParamWith cfg v index value s) := by
  unfold setParamWith
  split
  · refine setVoice_memory (.of_eq ?_) _ []
    rfl
  · exact respond_memory s _

theorem getParamWith_memory (index : Byte) : MemoryOutcome s (getParamWith cfg v index s) := by
  unfold getParamWith
  split <;> exact respond_memory s _

theorem exec_memory (i : Instr) : MemoryOutcome s (exec i s) := by
  cases i with
  | init rate => exact execInit_memory s rate
  | dispose => exact execDispose_memory s
  | createVoice => exact createVoiceWith_memory Config.hw s
  | destroyVoice v => exact destroyVoiceWith_memory Config.hw s v
  | loadInstrument v payload => exact loadInstrumentWith_memory Config.hw s v payload
  | noteOn v note velocity => exact noteOnWith_memory Config.hw s v note velocity
  | noteOff v => exact noteOffWith_memory Config.hw s v
  | render v n => exact renderWith_memory Config.hw s v n
  | setParam v index value => exact setParamWith_memory Config.hw s v index value
  | getParam v index => exact getParamWith_memory Config.hw s v index

end

/-- Settles O13, from what each command does to the sample RAMs. -/
theorem stepKeepsMemoryCanonical : Obligations.StepKeepsMemoryCanonical := by
  intro s t hs h
  rcases step_cases h with ⟨_, rfl⟩ | ⟨c, rest, _, ⟨i, _, hexec⟩ | ⟨_, rfl⟩⟩
  · exact hs
  · have out := exec_memory { s with commands := rest } i
    rw [hexec] at out
    exact out.memoryCanonical hs
  · exact hs

end Sys2Proof.Proofs

/-! PROOFS of the family 30_encoding: the decoder and the encoder are inverse up to reserved bits, reserved
bits and reserved opcodes do what the spec decides, and every command gives one reply. -/

namespace Sys2Proof.Proofs

open Sys2Proof.Machine Sys2Proof.Laws

/-! ## The fields of a word (30_encoding.md R81, R82) -/

section
variable (w m : Word)

theorem opcodeField_eq_iff (k : BitVec 4) : opcodeField w = k ↔ w.toNat / 2 ^ 28 = k.toNat := by
  rw [← opcodeField_toNat, BitVec.toNat_inj]

theorem field_eq_ofNat {n : Nat} (start len : Nat) (x : BitVec n) :
    x.extractLsb' start len = BitVec.ofNat len (x.toNat / 2 ^ start % 2 ^ len) := by
  rw [← extract_toNat, BitVec.ofNat_toNat, BitVec.setWidth_eq]

theorem operandField_toNat : (operandField w).toNat = w.toNat % 2 ^ 24 := by
  rw [operandField, extract_toNat, pow_zero, Nat.div_one]

theorem voiceField_eq_ofNat : voiceField w = BitVec.ofNat 4 (w.toNat / 2 ^ 24 % 16) :=
  field_eq_ofNat 24 4 w

theorem operandField_eq_ofNat : operandField w = BitVec.ofNat 24 (w.toNat % 2 ^ 24) := by
  rw [operandField, field_eq_ofNat, pow_zero, Nat.div_one]

theorem noteField_eq_ofNat : noteField w = BitVec.ofNat 7 (w.toNat / 2 ^ 8 % 128) :=
  field_eq_ofNat 8 7 w

theorem velocityField_eq_ofNat : velocityField w = BitVec.ofNat 7 (w.toNat % 128) := by
  rw [velocityField, field_eq_ofNat, pow_zero, Nat.div_one]
  rfl

theorem indexField_eq_ofNat : indexField w = BitVec.ofNat 8 (w.toNat / 2 ^ 16 % 256) :=
  field_eq_ofNat 16 8 w

theorem valueField_eq_ofNat : valueField w = BitVec.ofNat 16 (w.toNat % 2 ^ 16) := by
  rw [valueField, field_eq_ofNat, pow_zero, Nat.div_one]

theorem declaredPayload_eq_ite :
    declaredPayload w = if w.toNat / 2 ^ 28 = 5 then w.toNat % 2 ^ 24 else 0 := by
  simp only [declaredPayload, opcodeField_eq_iff, operandField_toNat]
  rfl

@[simp] theorem wordOf_fields : wordOf (opcodeField w) (voiceField w) (operandField w) = w := by
  apply BitVec.eq_of_toNat_eq
  rw [wordOf_toNat, opcodeField_toNat, operandField_toNat, voiceField, extract_toNat]
  omega

theorem opcodeField_and : opcodeField (w &&& m) = opcodeField w &&& opcodeField m :=
  BitVec.extractLsb'_and

theorem voiceField_and : voiceField (w &&& m) = voiceField w &&& voiceField m :=
  BitVec.extractLsb'_and

theorem operandField_and : operandField (w &&& m) = operandField w &&& operandField m :=
  BitVec.extractLsb'_and

/-- Format N with the operand bits it reserves (R82). -/
theorem operandField_eq_note :
    operandField w = w.extractLsb' 15 9 ++ noteField w ++ w.extractLsb' 7 1 ++ velocityField w := by
  apply BitVec.eq_of_toNat_eq
  rw [append_toNat, append_toNat, append_toNat, operandField_toNat, noteField, velocityField]
  simp only [extract_toNat]
  omega

theorem operandField_eq_param : operandField w = paramOperand (indexField w) (valueField w) := by
  apply BitVec.eq_of_toNat_eq
  rw [paramOperand_toNat, operandField_toNat, indexField, valueField, extract_toNat, extract_toNat]
  omega

end

/-! ### The operand fields of an encoded word -/

section
variable (o : BitVec 4) (v : Handle)

@[simp] theorem noteField_wordOf_noteOperand (note velocity : SevenBit) :
    noteField (wordOf o v (noteOperand note velocity)) = note := by
  apply BitVec.eq_of_toNat_eq; rw [noteField_wordOf, noteOperand_toNat]; omega

@[simp] theorem velocityField_wordOf_noteOperand (note velocity : SevenBit) :
    velocityField (wordOf o v (noteOperand note velocity)) = velocity := by
  apply BitVec.eq_of_toNat_eq; rw [velocityField_wordOf, noteOperand_toNat]; omega

@[simp] theorem indexField_wordOf_paramOperand (index : Byte) (value : BitVec 16) :
    indexField (wordOf o v (paramOperand index value)) = index := by
  apply BitVec.eq_of_toNat_eq; rw [indexField_wordOf, paramOperand_toNat]; omega

@[simp] theorem valueField_wordOf_paramOperand (index : Byte) (value : BitVec 16) :
    valueField (wordOf o v (paramOperand index value)) = value := by
  apply BitVec.eq_of_toNat_eq; rw [valueField_wordOf, paramOperand_toNat]; omega

end

/-! ## The decoder (R80, R83, R85) -/

theorem decode_of_declared {c : HostCommand} (h : c.payload.length = declaredPayload c.word) :
    decode c = decodeWord c.word c.payload := if_pos h

theorem decode_of_not_declared {c : HostCommand} (h : c.payload.length ≠ declaredPayload c.word) :
    decode c = .error .payloadLength := if_neg h

theorem declared_of_decode_ok {c : HostCommand} {i : Instr} (h : decode c = .ok i) :
    c.payload.length = declaredPayload c.word := by
  by_contra hlen
  rw [decode_of_not_declared hlen] at h
  cases h

/-- The reserved opcodes are 0 and 11 to 15, and nothing else makes `decodeWord` reject a word. -/
theorem decodeWord_eq_error_iff {w : Word} {p : List Byte} {e : DecodeError} :
    decodeWord w p = .error e ↔
      e = .reservedOpcode ∧ ((opcodeField w).toNat = 0 ∨ 11 ≤ (opcodeField w).toNat) := by
  unfold decodeWord
  split
  case h_11 =>
    have reserved : (opcodeField w).toNat = 0 ∨ 11 ≤ (opcodeField w).toNat := by grind
    rw [and_iff_left reserved, Except.error.injEq, eq_comm]
  all_goals simp [*]

/-- The payload is the declared one in every encoding, so only the word is left to decode. -/
theorem encodedForm (i : Instr) : EncodedForm.Statement i := by
  cases i with
  | init rate => exact EncodedForm.init rate
  | dispose => exact EncodedForm.dispose
  | createVoice => exact EncodedForm.createVoice
  | destroyVoice v => exact EncodedForm.destroyVoice v
  | loadInstrument v payload => exact EncodedForm.loadInstrument v payload
  | noteOn v note velocity => exact EncodedForm.noteOn v note velocity
  | noteOff v => exact EncodedForm.noteOff v
  | render v n => exact EncodedForm.render v n
  | setParam v index value => exact EncodedForm.setParam v index value
  | getParam v index => exact EncodedForm.getParam v index

/-- Every field the decoder reads off an encoded word is the operand that was put there. -/
theorem decodeWord_encode (i : Instr) : decodeWord (encode i).word (encode i).payload = .ok i := by
  cases i <;> simp [encode, decodeWord]

theorem decode_encode {i : Instr} (wf : i.wellFormed = true) : decode (encode i) = .ok i := by
  obtain ⟨_, declared⟩ := encodedForm i wf
  rw [decode_of_declared declared, decodeWord_encode]

/-! ## Reserved bits (R82, R83, R86) -/

section
variable (c : HostCommand)

theorem clearReserved_word :
    (clearReserved c).word = c.word &&& reservedMask (opcodeField c.word).toNat := by
  rw [opcodeField_toNat]; rfl

theorem opcodeField_reservedMask (k : Nat) : opcodeField (reservedMask k) = BitVec.allOnes 4 := by
  unfold reservedMask
  split <;> rfl

@[simp] theorem opcodeField_clearReserved :
    opcodeField (clearReserved c).word = opcodeField c.word := by
  rw [clearReserved_word, opcodeField_and, opcodeField_reservedMask, BitVec.and_allOnes]

/-- The length L of a payload has no reserved bit. -/
@[simp] theorem declaredPayload_clearReserved :
    declaredPayload (clearReserved c).word = declaredPayload c.word := by
  unfold declaredPayload
  rw [opcodeField_clearReserved]
  split
  · rename_i h
    have mask : operandField (reservedMask (5 : BitVec 4).toNat) = BitVec.allOnes 24 := rfl
    rw [clearReserved_word, h, operandField_and, mask, BitVec.and_allOnes]
  · rfl

end

/-- The mask of format N keeps the second and the fourth of the four parts of its operand. -/
theorem append_and_mask {a b c d : Nat} (x : BitVec a) (y : BitVec b) (z : BitVec c)
    (t : BitVec d) :
    x ++ y ++ z ++ t &&& 0#a ++ BitVec.allOnes b ++ 0#c ++ BitVec.allOnes d =
      0#a ++ y ++ 0#c ++ t := by
  simp only [BitVec.and_append, BitVec.and_zero, BitVec.and_allOnes]

/-- The operand of format N, with its reserved bits masked off. -/
theorem noteOperand_fields (w : Word) :
    noteOperand (noteField w) (velocityField w) =
      operandField w &&& operandField (reservedMask 6) := by
  have mask : operandField (reservedMask 6) =
      0#9 ++ BitVec.allOnes 7 ++ 0#1 ++ BitVec.allOnes 7 := rfl
  rw [operandField_eq_note, mask]
  exact (append_and_mask ..).symm

/-- The operand of format G: format P with the value reserved. -/
theorem paramOperand_fields_zero (w : Word) :
    paramOperand (indexField w) 0 = operandField w &&& operandField (reservedMask 10) := by
  have mask : operandField (reservedMask 10) = BitVec.allOnes 8 ++ 0#16 := rfl
  rw [operandField_eq_param, mask, paramOperand, paramOperand, BitVec.and_append,
    BitVec.and_allOnes, BitVec.and_zero]
  rfl

/-- Clearing the reserved bits of a word, field by field. -/
theorem wordOf_eq_clearReserved {c : HostCommand} {k : BitVec 4} {v : Handle} {x : Operand}
    (hk : (opcodeField c.word).toNat = k.toNat)
    (hv : v = voiceField c.word &&& voiceField (reservedMask k.toNat))
    (hx : x = operandField c.word &&& operandField (reservedMask k.toNat)) :
    wordOf k v x = (clearReserved c).word := by
  rw [← wordOf_fields (clearReserved c).word, opcodeField_clearReserved, BitVec.eq_of_toNat_eq hk,
    clearReserved_word, hk, voiceField_and, operandField_and, ← hv, ← hx]

/-- The same for a command that declares no payload. -/
theorem plain_eq_clearReserved {c : HostCommand} {k : BitVec 4} {v : Handle} {x : Operand}
    (declared : c.payload.length = declaredPayload c.word) (ne : k ≠ 5)
    (hk : (opcodeField c.word).toNat = k.toNat)
    (hv : v = voiceField c.word &&& voiceField (reservedMask k.toNat))
    (hx : x = operandField c.word &&& operandField (reservedMask k.toNat)) :
    (⟨wordOf k v x, []⟩ : HostCommand) = clearReserved c := by
  have empty : c.payload = [] := by
    rw [declaredPayload, BitVec.eq_of_toNat_eq hk, if_neg ne] at declared
    exact List.eq_nil_of_length_eq_zero declared
  rw [wordOf_eq_clearReserved hk hv hx, ← empty]
  rfl

/-- Each opcode keeps the fields its command reads and reserves the rest, so its encoding is the word
with the reserved bits cleared. -/
theorem encode_of_decode {c : HostCommand} {i : Instr} (h : decode c = .ok i) :
    encode i = clearReserved c := by
  have declared := declared_of_decode_ok h
  have all {n : Nat} (x : BitVec n) : x = x &&& BitVec.allOnes n := BitVec.and_allOnes.symm
  have zero {n : Nat} (x : BitVec n) : 0 = x &&& 0#n := BitVec.and_zero.symm
  rw [decode_of_declared declared] at h
  unfold decodeWord at h
  split at h
  case h_1 hk => -- INIT
    cases h
    exact plain_eq_clearReserved declared (by decide) hk (zero _) (all _)
  case h_2 hk => -- DISPOSE
    cases h
    exact plain_eq_clearReserved declared (by decide) hk (zero _) (zero _)
  case h_3 hk => -- CREATE_VOICE
    cases h
    exact plain_eq_clearReserved declared (by decide) hk (zero _) (zero _)
  case h_4 hk => -- DESTROY_VOICE
    cases h
    exact plain_eq_clearReserved declared (by decide) hk (all _) (zero _)
  case h_5 hk => -- LOAD_INSTRUMENT
    cases h
    have length : BitVec.ofNat 24 c.payload.length = operandField c.word := by
      rw [declared, declaredPayload, if_pos (BitVec.eq_of_toNat_eq hk), BitVec.ofNat_toNat,
        BitVec.setWidth_eq]
    exact congrArg (HostCommand.mk · c.payload)
      (wordOf_eq_clearReserved hk (all _) (length.trans (all _)))
  case h_6 hk => -- NOTE_ON
    cases h
    exact plain_eq_clearReserved declared (by decide) hk (all _) (noteOperand_fields _)
  case h_7 hk => -- NOTE_OFF
    cases h
    exact plain_eq_clearReserved declared (by decide) hk (all _) (zero _)
  case h_8 hk => -- RENDER
    cases h
    exact plain_eq_clearReserved declared (by decide) hk (all _) (all _)
  case h_9 hk => -- SET_PARAM
    cases h
    exact plain_eq_clearReserved declared (by decide) hk (all _)
      ((operandField_eq_param _).symm.trans (all _))
  case h_10 hk => -- GET_PARAM
    cases h
    exact plain_eq_clearReserved declared (by decide) hk (all _) (paramOperand_fields_zero _)
  case h_11 => cases h

/-- A payload that a word declares fits the field that declares it (R60). -/
theorem wellFormed_of_decode {c : HostCommand} {i : Instr} (h : decode c = .ok i) :
    i.wellFormed = true := by
  have fits : payloadFits c.payload = true := by
    have bound := (operandField c.word).isLt
    rw [payloadFits, decide_eq_true_iff, declared_of_decode_ok h, declaredPayload]
    split <;> omega
  rw [decode_of_declared (declared_of_decode_ok h)] at h
  unfold decodeWord at h
  split at h
  case h_5 => cases h; exact fits
  case h_11 => cases h
  all_goals cases h; rfl

/-- What decodes does so from its own encoding, which is the cleared command; what is rejected is
rejected by its opcode or its length, which clearing keeps. -/
theorem decode_clearReserved (c : HostCommand) : decode (clearReserved c) = decode c := by
  cases h : decode c with
  | ok i => rw [← encode_of_decode h, decode_encode (wellFormed_of_decode h)]
  | error e =>
    have sameLength : (clearReserved c).payload.length = c.payload.length := rfl
    by_cases declared : c.payload.length = declaredPayload c.word
    · rw [decode_of_declared declared, decodeWord_eq_error_iff] at h
      rwa [decode_of_declared (by simpa [sameLength] using declared), decodeWord_eq_error_iff,
        opcodeField_clearReserved]
    · rw [decode_of_not_declared declared] at h
      rwa [decode_of_not_declared (by simpa [sameLength] using declared)]

/-! ## The encoding statements -/

/-- Settles O1. -/
theorem decodeOfEncode : Obligations.DecodeOfEncode := fun _ wf => decode_encode wf

/-- Settles O2. -/
theorem encodeOfDecode : Obligations.EncodeOfDecode :=
  fun _ _ h => ⟨wellFormed_of_decode h, encode_of_decode h⟩

/-- Settles O3: the payload's length chooses the clause, and the arithmetic of the statement is that of
the fields `decodeWord` reads. -/
theorem decodeReadsFields : Obligations.DecodeReadsFields := by
  intro w p
  rw [← declaredPayload_eq_ite]
  refine ⟨fun declared => ?_, fun other => decode_of_not_declared other⟩
  rw [← opcodeField_toNat, ← voiceField_eq_ofNat, ← operandField_eq_ofNat, ← noteField_eq_ofNat,
    ← velocityField_eq_ofNat, ← indexField_eq_ofNat, ← valueField_eq_ofNat]
  exact decode_of_declared declared

/-- Settles O4: a step looks at a command only through the decoder. -/
theorem reservedBitsIgnored : Obligations.ReservedBitsIgnored := by
  intro s c rest
  simp only [step, fetch?, decode_clearReserved]

/-- Settles O6: each word is the encoding of its command. -/
theorem workedEncodingsDecode : Obligations.WorkedEncodingsDecode :=
  ⟨decode_encode (i := .init 44100) rfl, decode_encode (i := .createVoice) rfl,
    decode_encode (i := .loadInstrument 1 [1, 2, 3]) rfl, decode_encode (i := .noteOn 0 69 127) rfl,
    decode_encode (i := .noteOff 3) rfl, decode_encode (i := .render 0 882) rfl,
    decode_encode (i := .setParam 2 13 12) rfl, decode_encode (i := .getParam 2 13) rfl⟩

/-! ## Responses (R84, R85) -/

/-- The end of a command: one response, after writes that touch neither list. -/
theorem respond_once {s u t : State} {r : Word}
    (h : (.next (u.respond r) : Host.Outcome State Fault Refusal) = .next t)
    (commands : u.commands = s.commands) (replies : u.replies = s.replies) :
    t.commands = s.commands ∧ ∃ r, t.replies = s.replies ++ [r] := by
  obtain rfl := Host.Outcome.next.inj h
  exact ⟨commands, ⟨r, []⟩, by rw [respond_replies, replies]⟩

/-- A command answers once and leaves the later commands. Addressed to a voice, this is one half of its
pairing with itself; INIT, DISPOSE and CREATE_VOICE are left. -/
theorem exec_replies_once {i : Instr} {s t : State} (h : exec i s = .next t) :
    t.commands = s.commands ∧ ∃ r, t.replies = s.replies ++ [r] := by
  cases target : targetVoice i with
  | some v =>
    have pair := exec_paired target (.refl v s)
    rw [h] at pair
    obtain ⟨kept, _, r, _, _, replies, _⟩ := pair.of_next
    exact ⟨kept.commands, r, replies⟩
  | none =>
    cases i with
    | init rate =>
      simp only [exec, execInit] at h
      split at h
      · exact respond_once h rfl rfl
      · exact respond_once h (by simp) (by simp)
    | dispose =>
      simp only [exec, execDispose] at h
      split at h
      · exact respond_once h (by simp) (by simp)
      · exact respond_once h rfl rfl
    | createVoice =>
      simp only [exec, execCreateVoice, createVoiceWith] at h
      split at h
      · split at h
        · exact respond_once h (resetSlot_commands s _ _) (resetSlot_replies s _ _)
        · exact respond_once h rfl rfl
      · exact respond_once h rfl rfl
    | _ => cases target

/-- Settles O8. -/
theorem everyCommandRepliesOnce : Obligations.EveryCommandRepliesOnce := by
  intro s t c rest hc h
  rcases step_cases h with ⟨waiting, _⟩ | ⟨c', rest', hc', ⟨i, _, hexec⟩ | ⟨_, rfl⟩⟩
  · cases hc.symm.trans waiting
  · cases hc.symm.trans hc'
    exact exec_replies_once hexec
  · cases hc.symm.trans hc'
    exact ⟨rfl, _, rfl⟩

/-- Settles O5: a reserved opcode declares no payload, so the word is rejected by its opcode. -/
theorem reservedOpcodeResponds : Obligations.ReservedOpcodeResponds := by
  intro s w rest reserved
  have declared : ([] : List Byte).length = declaredPayload w := by
    rw [declaredPayload_eq_ite, if_neg (by omega)]
    rfl
  have rejected : decode ⟨w, []⟩ = .error .reservedOpcode := by
    rw [decode_of_declared declared, decodeWord_eq_error_iff, opcodeField_toNat]
    exact ⟨rfl, reserved⟩
  exact step_of_decode_error (s := { s with commands := ⟨w, []⟩ :: rest }) rfl rejected

end Sys2Proof.Proofs

/-! PROOFS of the family 40_load_instrument: the parser's checks in their order, what each kind of blob
loads and GET_PARAM then reads, and the note that an empty sample never starts. -/

namespace Sys2Proof.Proofs

open Sys2Proof.Machine Sys2Proof.Laws

/-! ## Loop truncation (40_load_instrument.md R117) -/

/-- Both bounds of R117 are one minimum: past the end nothing is left, and `n - start` is 0. -/
theorem truncateLoop_length (n start length : Nat) :
    (truncateLoop n start length).2 = min length (n - start) := by
  unfold truncateLoop
  split_ifs <;> dsimp only <;> omega

/-- Settles O26. -/
theorem loopTruncatedToFit : Obligations.LoopTruncatedToFit := by
  intro n start length
  have hlength := truncateLoop_length n start length
  exact ⟨(truncateLoop_spec n start length).1, fun outside => by omega, fun _ => hlength⟩

/-! ## The parser, one equation per kind of blob (R110) -/

section
variable (cfg : Config) {p : List Byte}

theorem parse_nil : parse cfg [] = .error errShortHeader := rfl

theorem parse_of_synth (ne : p ≠ []) (hk : payloadByte p 0 = 0) :
    parse cfg p =
      if p.length < synthBlobMin then .error errShortHeader
      else .ok (synthInstrument cfg p, Memory.unspecified) := by
  have hlen : ¬ p.length < 1 := by simpa using ne
  rw [parse, if_neg hlen, hk]
  rfl

theorem parse_of_pcm (ne : p ≠ []) (hk : payloadByte p 0 = 1) :
    parse cfg p =
      if p.length < pcmBlobMin then .error errShortHeader
      else if cfg.pcmMaxLen < (le32 p 4).toNat then .error errAlloc
      else if p.length - pcmBlobMin < (le32 p 4).toNat then .error errShortData
      else .ok (pcmInstrument p, Memory.load (pcmSamples p)) := by
  have hlen : ¬ p.length < 1 := by simpa using ne
  rw [parse, if_neg hlen, hk]
  rfl

theorem parse_of_badKind (ne : p ≠ []) (hk : 1 < (payloadByte p 0).toNat) :
    parse cfg p = .error errBadKind := by
  have hlen : ¬ p.length < 1 := by simpa using ne
  rw [parse, if_neg hlen]
  split
  · omega
  · omega
  · rfl

theorem ne_nil_of_le_length {n : Nat} (pos : 0 < n) (h : n ≤ p.length) : p ≠ [] :=
  List.ne_nil_of_length_pos (by omega)

theorem parse_synth_short (ne : p ≠ []) (hk : payloadByte p 0 = 0)
    (short : p.length < synthBlobMin) : parse cfg p = .error errShortHeader := by
  rw [parse_of_synth cfg ne hk, if_pos short]

theorem parse_synth_ok (hlen : synthBlobMin ≤ p.length) (hk : payloadByte p 0 = 0) :
    parse cfg p = .ok (synthInstrument cfg p, Memory.unspecified) := by
  rw [parse_of_synth cfg (ne_nil_of_le_length (by decide) hlen) hk, if_neg (not_lt.mpr hlen)]

theorem parse_pcm_short (ne : p ≠ []) (hk : payloadByte p 0 = 1) (short : p.length < pcmBlobMin) :
    parse cfg p = .error errShortHeader := by
  rw [parse_of_pcm cfg ne hk, if_pos short]

theorem parse_pcm_tooLong (hk : payloadByte p 0 = 1) (hlen : pcmBlobMin ≤ p.length)
    (big : cfg.pcmMaxLen < (le32 p 4).toNat) : parse cfg p = .error errAlloc := by
  rw [parse_of_pcm cfg (ne_nil_of_le_length (by decide) hlen) hk, if_neg (not_lt.mpr hlen),
    if_pos big]

theorem parse_pcm_missingData (hk : payloadByte p 0 = 1) (hlen : pcmBlobMin ≤ p.length)
    (hmax : (le32 p 4).toNat ≤ cfg.pcmMaxLen)
    (missing : p.length < pcmBlobMin + (le32 p 4).toNat) : parse cfg p = .error errShortData := by
  rw [parse_of_pcm cfg (ne_nil_of_le_length (by decide) hlen) hk, if_neg (not_lt.mpr hlen),
    if_neg (not_lt.mpr hmax), if_pos (by omega)]

theorem parse_pcm_ok (hk : payloadByte p 0 = 1) (hdata : pcmBlobMin + (le32 p 4).toNat ≤ p.length)
    (hmax : (le32 p 4).toNat ≤ cfg.pcmMaxLen) :
    parse cfg p = .ok (pcmInstrument p, Memory.load (pcmSamples p)) := by
  have hlen : pcmBlobMin ≤ p.length := by omega
  rw [parse_of_pcm cfg (ne_nil_of_le_length (by decide) hlen) hk, if_neg (not_lt.mpr hlen),
    if_neg (not_lt.mpr hmax), if_neg (by omega)]

end

/-! ## The commands on a valid handle, and what they leave unchanged -/

/-- A response given as a status code. -/
theorem respond_statusWord (s : State) (code : Int) :
    s.respond (statusWord code) = s.answered code := rfl

theorem setVoice_respond_kept (s : State) (v : Handle) (x : Voice) (r : Word) :
    KeptBut v s ((s.setVoice v x).respond r) :=
  ⟨rfl, rfl, fun u ne => setVoice_voice_ne s u v x ne, rfl⟩

section
variable {s : State} {v : Handle} {p : List Byte}

/-- A blob that fails a check: its code, and no change (R110, R120). -/
theorem loadInstrument_of_parse_error {code : Int} (hv : validHandle Config.hw s v = true)
    (hp : parse Config.hw p = .error (statusWord code)) :
    exec (.loadInstrument v p) s = .next (s.answered code) := by
  simp only [exec, execLoadInstrument, loadInstrumentWith, hv, if_true, hp, respond_statusWord]

/-- A blob that passes the checks (R110, R119). -/
theorem loadInstrument_of_parse_ok {x : Instrument} {m : Memory}
    (hv : validHandle Config.hw s v = true) (hp : parse Config.hw p = .ok (x, m)) :
    exec (.loadInstrument v p) s =
      .next ((s.setVoice v (loadVoice x m (s.voice v))).respond statusOk) := by
  simp only [exec, execLoadInstrument, loadInstrumentWith, hv, if_true, hp]

theorem noteOn_of_loaded (hv : validHandle Config.hw s v = true) (hld : (s.voice v).loaded = true)
    (note velocity : SevenBit) :
    exec (.noteOn v note velocity) s =
      .next ((s.setVoice v
        (startNote Config.hw s.sampleRate.toNat note velocity (s.voice v))).respond statusOk) := by
  simp [exec, execNoteOn, noteOnWith, holdsInstrument, hv, hld]

/-- The voice after a load has its playback state at the reset values (R119). -/
theorem loadVoice_playbackReset (x : Instrument) (m : Memory) (w : Voice) :
    (loadVoice x m w).PlaybackReset :=
  ⟨rfl, rfl, rfl, rfl, rfl, rfl, rfl, rfl, rfl, rfl, rfl, rfl, rfl, rfl⟩

/-- GET_PARAM after a load reads the registers that were loaded (45_host_commands.md R222). -/
theorem getParam_after_load (hv : validHandle Config.hw s v = true) (x : Instrument) (m : Memory)
    (r : Word) (index : Byte) :
    exec (.getParam v index) ((s.setVoice v (loadVoice x m (s.voice v))).respond r) =
      .next (((s.setVoice v (loadVoice x m (s.voice v))).respond r).respond (readParam x index)) := by
  obtain ⟨valid, inPool, allocated⟩ := validHandle_spec hv
  simp [exec, execGetParam, getParamWith, holdsInstrument, validHandle, loadVoice, valid, inPool,
    allocated]

end

/-- Settles O23: each clause picks the parser's branch by kind and length. -/
theorem loadChecksInOrder : Obligations.LoadChecksInOrder := by
  intro s v p hv
  refine ⟨fun empty => ?_, fun ne hk => ?_, fun ne hk short => ?_, fun ne hk short => ?_,
    fun hk hlen big => ?_, fun hk hlen short => ?_⟩
  · subst empty
    exact loadInstrument_of_parse_error hv (parse_nil _)
  · exact loadInstrument_of_parse_error hv (parse_of_badKind _ ne hk)
  · exact loadInstrument_of_parse_error hv (parse_synth_short _ ne hk short)
  · exact loadInstrument_of_parse_error hv (parse_pcm_short _ ne hk short)
  · exact loadInstrument_of_parse_error hv (parse_pcm_tooLong _ hk hlen big)
  · split
    · rename_i big
      exact loadInstrument_of_parse_error hv (parse_pcm_tooLong _ hk hlen big)
    · rename_i fits
      exact loadInstrument_of_parse_error hv
        (parse_pcm_missingData _ hk hlen (not_lt.mp fits) short)

/-! ## What a synth blob loads (R113, R114) -/

/-- Settles O24: the parser's registers are the blob's bytes, through `clampByte` where R114 clamps. -/
theorem loadSynth : Obligations.LoadSynth := by
  intro s v p hv hlen hk
  obtain ⟨_, _, allocated⟩ := validHandle_spec hv
  have waves : Config.hw.nwaves - 1 ≤ 255 := by
    have := hw_admissible.nwaves_le
    omega
  have attack : (synthInstrument Config.hw p).attackLevel.toNat = min (payloadByte p 5).toNat 64 :=
    clampByte_toNat (by decide)
  have decay : (synthInstrument Config.hw p).decayLevel.toNat =
      min (min (payloadByte p 7).toNat 64) (synthInstrument Config.hw p).attackLevel.toNat := by
    rw [attack]
    refine (clampByte_toNat (by simp only [maxVolume]; omega)).trans ?_
    simp only [maxVolume]
    omega
  have tables : ∀ k : Fin 16,
      (synthInstrument Config.hw p).seq[k].wave.toNat =
        min (payloadByte p (16 + 3 * k)).toNat (Config.hw.nwaves - 1) ∧
      (synthInstrument Config.hw p).seq[k].transpose = payloadByte p (17 + 3 * k) ∧
      (synthInstrument Config.hw p).seq[k].effect = payloadByte p (18 + 3 * k) ∧
      (synthInstrument Config.hw p).arp[k] = payloadByte p (64 + k) := fun k => by
    simp [synthInstrument, clampByte_toNat waves]
  exact ⟨_, _, loadInstrument_of_parse_ok hv (parse_synth_ok _ hlen hk), setVoice_voice_self s v _,
    setVoice_respond_kept s v _ _, rfl, rfl, allocated, loadVoice_playbackReset _ _ _, rfl,
    unspecified_read?, rfl, clampByte_toNat waves, rfl, clampByte_toNat (by decide), rfl, attack, rfl,
    decay, rfl, clampByte_toNat (by decide), rfl, rfl, rfl, rfl, clampByte_toNat (by decide), tables,
    rfl, rfl, rfl, rfl, rfl⟩

/-! ## What a PCM blob loads (R116, R117, R118) -/

section
variable {p : List Byte}

theorem payloadByte_getElem? {o : Nat} (h : o < p.length) : p[o]? = some (payloadByte p o) := by
  simp [payloadByte, h]

/-- The sample RAM holds the declared bytes, from offset 16 of the blob (R90), and no other. -/
theorem pcmSamples_getElem? (hdata : pcmBlobMin + (le32 p 4).toNat ≤ p.length) (a : Nat) :
    (pcmSamples p)[a]? =
      if a < (le32 p 4).toNat then some (payloadByte p (pcmBlobMin + a)) else none := by
  rw [pcmSamples, List.getElem?_take]
  split
  · rw [List.getElem?_drop, payloadByte_getElem? (by omega)]
  · rfl

theorem pcmInstrument_loopStart : (pcmInstrument p).loopStart = le32 p 8 :=
  BitVec.eq_of_toNat_eq (pcmInstrument_loop p).1

theorem pcmInstrument_loopLength :
    (pcmInstrument p).loopLength.toNat =
      min (le32 p 12).toNat ((le32 p 4).toNat - (le32 p 8).toNat) := by
  rw [(pcmInstrument_loop p).2, truncateLoop_length]

/-- A loop that lies in the sample is not truncated (R117). -/
theorem pcmInstrument_loopLength_of_fits
    (fits : (le32 p 8).toNat + (le32 p 12).toNat ≤ (le32 p 4).toNat) :
    (pcmInstrument p).loopLength = le32 p 12 :=
  BitVec.eq_of_toNat_eq (by rw [pcmInstrument_loopLength]; omega)

end

/-- Settles O25. -/
theorem loadPcm : Obligations.LoadPcm := by
  intro s v p hv hk hdata hmax
  obtain ⟨_, _, allocated⟩ := validHandle_spec hv
  have samples : ∀ a, Memory.read? (Memory.load (pcmSamples p)) a =
      if a < (le32 p 4).toNat then some (payloadByte p (16 + a)) else none := fun a =>
    (load_read? _ a).trans (pcmSamples_getElem? hdata a)
  have loop : (pcmInstrument p).loopLength.toNat =
      if (le32 p 4).toNat ≤ (le32 p 8).toNat then 0
      else min (le32 p 12).toNat ((le32 p 4).toNat - (le32 p 8).toNat) := by
    rw [pcmInstrument_loopLength]
    split <;> omega
  have tables : ∀ k : Fin 16,
      (pcmInstrument p).seq[k] = ⟨0, 0, 0⟩ ∧ (pcmInstrument p).arp[k] = 0 := fun k => by
    simp [pcmInstrument]
  exact ⟨_, _, loadInstrument_of_parse_ok hv (parse_pcm_ok _ hk hdata hmax),
    setVoice_voice_self s v _, setVoice_respond_kept s v _ _, rfl, rfl, allocated,
    loadVoice_playbackReset _ _ _, rfl, samples, rfl, clampByte_toNat (by decide), rfl, rfl,
    pcmInstrument_loopStart, loop, rfl, rfl, rfl, rfl, rfl, rfl, rfl, rfl, rfl, rfl, rfl, rfl, rfl,
    rfl, tables⟩

/-! ## Reading a synth blob back (R121; 30_encoding.md R88, R95) -/

/-- A byte in range passes the clamp unchanged. -/
theorem clampByte_of_le {b : Byte} {hi : Nat} (h : b.toNat ≤ hi) : clampByte b.toNat hi = b := by
  rw [clampByte, Nat.min_eq_left h, BitVec.ofNat_toNat, BitVec.setWidth_eq]

/-- The fields of a synth blob that R114 clamps hold legal values. -/
structure LegalSynthBlob (cfg : Config) (p : List Byte) : Prop where
  kind : payloadByte p 0 = 0
  initialWave : (payloadByte p 1).toNat < cfg.nwaves
  sequencerLength : (payloadByte p 3).toNat ≤ tableMax
  attackLevel : (payloadByte p 5).toNat ≤ maxVolume
  decayLevel : (payloadByte p 7).toNat ≤ (payloadByte p 5).toNat
  sustainLevel : (payloadByte p 9).toNat ≤ maxVolume
  arpeggioLength : (payloadByte p 14).toNat ≤ tableMax
  seqWave : ∀ k < 16, (payloadByte p (16 + 3 * k)).toNat < cfg.nwaves

section
variable {cfg : Config} {p : List Byte} {index : Byte}

/-- The scalar registers of a synth, all unsigned. -/
theorem readParam_synth_scalar (legal : LegalSynthBlob cfg p) (hi : index.toNat < 15) :
    readParam (synthInstrument cfg p) index = readUnsigned (payloadByte p index.toNat) := by
  have decayFits : (payloadByte p 7).toNat ≤
      min maxVolume (min (payloadByte p 5).toNat maxVolume) := by
    have := legal.attackLevel
    have := legal.decayLevel
    omega
  have initialWave := clampByte_of_le (Nat.le_sub_one_of_lt legal.initialWave)
  have sequencerLength := clampByte_of_le legal.sequencerLength
  have attackLevel := clampByte_of_le legal.attackLevel
  have decayLevel := clampByte_of_le decayFits
  have sustainLevel := clampByte_of_le legal.sustainLevel
  have arpeggioLength := clampByte_of_le legal.arpeggioLength
  unfold readParam
  generalize index.toNat = n at hi ⊢
  interval_cases n <;>
    simp only [synthInstrument, legal.kind, initialWave, sequencerLength, attackLevel, decayLevel,
      sustainLevel, arpeggioLength]
  rfl

/-- The sequencer table stands at offsets 16 to 63, three bytes an entry. -/
theorem readParam_seq (x : Instrument) (h16 : 16 ≤ index.toNat) (h64 : index.toNat < 64) :
    readParam x index = readSeq x.seq (index.toNat - 16) := by
  unfold readParam
  generalize index.toNat = n at h16 h64 ⊢
  obtain ⟨k, rfl⟩ := Nat.exists_eq_add_of_le' h16
  exact if_pos h64

/-- The arpeggio table stands at offsets 64 to 79. -/
theorem readParam_arp (x : Instrument) {k : Fin 16} (hk : index.toNat = k + 64) :
    readParam x index = readSigned x.arp[k] := by
  have outside : ¬ (k : Nat) + 64 < 64 := by omega
  have inside : (k : Nat) + 64 < 80 := by omega
  unfold readParam
  rw [hk]
  refine ((if_neg outside).trans (if_pos inside)).trans ?_
  simp

/-- The byte at offset 16 + n: of the three bytes of an entry the transpose alone is signed. -/
theorem readSeq_synth (legal : LegalSynthBlob cfg p) {n : Nat} (hn : n < 48) :
    readSeq (synthInstrument cfg p).seq n =
      if n % 3 = 1 then readSigned (payloadByte p (16 + n))
      else readUnsigned (payloadByte p (16 + n)) := by
  have hk : n / 3 < 16 := by omega
  have entry : (synthInstrument cfg p).seq[Fin.ofNat 16 (n / 3)] =
      ⟨payloadByte p (16 + 3 * (n / 3)), payloadByte p (17 + 3 * (n / 3)),
        payloadByte p (18 + 3 * (n / 3))⟩ := by
    simp [synthInstrument, Nat.mod_eq_of_lt hk,
      clampByte_of_le (Nat.le_sub_one_of_lt (legal.seqWave _ hk))]
  have hmod : n % 3 = 0 ∨ n % 3 = 1 ∨ n % 3 = 2 := by omega
  unfold readSeq
  rw [entry]
  rcases hmod with h | h | h
  · have offset : 16 + 3 * (n / 3) = 16 + n := by omega
    simp [h, offset]
  · have offset : 17 + 3 * (n / 3) = 16 + n := by omega
    simp [h, offset]
  · have offset : 18 + 3 * (n / 3) = 16 + n := by omega
    simp [h, offset]

/-- Every parameter of a legal synth blob reads back the byte of its offset, extended by its sign. -/
theorem readParam_synth (legal : LegalSynthBlob cfg p) (hi : index.toNat < 80)
    (reserved : index.toNat ≠ 15) :
    readParam (synthInstrument cfg p) index =
      if 64 ≤ index.toNat ∨ (16 ≤ index.toNat ∧ index.toNat % 3 = 2)
      then readSigned (payloadByte p index.toNat) else readUnsigned (payloadByte p index.toNat) := by
  rcases Nat.lt_or_ge index.toNat 16 with h16 | h16
  · rw [readParam_synth_scalar legal (by omega), if_neg (by omega)]
  · rcases Nat.lt_or_ge index.toNat 64 with h64 | h64
    · rw [readParam_seq _ h16 h64, readSeq_synth legal (by omega), Nat.add_sub_cancel' h16]
      exact if_congr (by omega) rfl rfl
    · obtain ⟨k, hk⟩ := Nat.exists_eq_add_of_le' h64
      have entry : (synthInstrument cfg p).arp[(⟨k, by omega⟩ : Fin 16)] =
          payloadByte p index.toNat := by
        rw [hk, Nat.add_comm]
        simp [synthInstrument]
      rw [readParam_arp _ (k := ⟨k, by omega⟩) hk, entry, if_pos (.inl h64)]

end

/-- Settles O27. -/
theorem synthBlobRoundTrip : Obligations.SynthBlobRoundTrip := by
  intro s v p index hv hlen hk wave seqLength attack decay sustain arpLength seqWave hi reserved
  have legal : LegalSynthBlob Config.hw p :=
    ⟨hk, wave, seqLength, attack, decay, sustain, arpLength, seqWave⟩
  refine ⟨_, _, loadInstrument_of_parse_ok hv (parse_synth_ok _ hlen hk),
    getParam_after_load hv _ _ _ index, ?_⟩
  rw [respond_replies, readParam_synth legal hi reserved]
  rfl

/-! ## Reading a PCM blob back (R121; 30_encoding.md R89, R95)

The reads as the response words of the numbers they stand for (30_encoding.md R84). -/

theorem readUnsigned_eq_statusWord (b : Byte) : readUnsigned b = statusWord b.toNat := by
  rw [statusWord, BitVec.ofInt_natCast, BitVec.ofNat_toNat]
  rfl

theorem readSigned_eq_statusWord (b : Byte) : readSigned b = statusWord b.toInt := rfl

theorem word_eq_statusWord (w : Word) : w = statusWord w.toNat := by
  rw [statusWord, BitVec.ofInt_natCast, BitVec.ofNat_toNat, BitVec.setWidth_eq]

/-- Settles O28. -/
theorem pcmBlobRoundTrip : Obligations.PcmBlobRoundTrip := by
  intro s v p hv hk hdata hmax volume fits
  refine ⟨_, loadInstrument_of_parse_ok hv (parse_pcm_ok _ hk hdata hmax), ?_⟩
  have volumeRead : readParam (pcmInstrument p) 15 = statusWord (payloadByte p 1).toNat :=
    (congrArg readUnsigned (clampByte_of_le volume)).trans (readUnsigned_eq_statusWord _)
  have startRead : readParam (pcmInstrument p) 82 = statusWord (le32 p 8).toNat :=
    pcmInstrument_loopStart.trans (word_eq_statusWord _)
  have lengthRead : readParam (pcmInstrument p) 83 = statusWord (le32 p 12).toNat :=
    (pcmInstrument_loopLength_of_fits fits).trans (word_eq_statusWord _)
  have sampleRead : readParam (pcmInstrument p) 81 = statusWord (le32 p 4).toNat :=
    word_eq_statusWord _
  simp only [getParam_after_load hv, volumeRead, startRead, lengthRead, sampleRead]
  exact ⟨rfl, rfl, rfl, rfl, rfl, rfl⟩

/-! ## The start of a note (45_host_commands.md R216) -/

/-- What NOTE_ON does to a voice whatever its envelope comes to: the storage kept, every counter and
phase at its start, and the increment of the pitch. -/
structure NoteStarted (cfg : Config) (rate : Nat) (note velocity : SevenBit) (v w : Voice) : Prop where
  storage : StorageKept v w
  tickAccumulator : w.tickAccumulator = v.tickAccumulator
  baseNote : w.baseNote = note
  velocity : w.velocity = velocity
  oscillatorPhase : w.oscillatorPhase = 0
  sequencerStep : w.sequencerStep = 0
  sequencerTickCounter : w.sequencerTickCounter = 0
  activeWave : w.activeWave = v.instrument.initialWaveIndex
  arpeggioIndex : w.arpeggioIndex = 0
  vibratoPhase : w.vibratoPhase = 0
  vibratoDelayRemaining : w.vibratoDelayRemaining = v.instrument.vibratoDelay.toNat
  phaseIncrement : w.phaseIncrement = noteIncrement cfg rate note v.instrument

section
variable {cfg : Config} (rate : Nat) (note velocity : SevenBit) (v : Voice)

theorem endIfEmpty_frame (x : Voice) : EnvFrame x (endIfEmpty x) := by
  unfold endIfEmpty
  split
  · exact forceOff_frame x
  · rfl

theorem endIfEmpty_of_empty {x : Voice} (hk : x.instrument.kind = .pcmSample)
    (hl : x.instrument.sampleLength = 0) : endIfEmpty x = forceOff x := if_pos ⟨hk, hl⟩

/-- The increment does not depend on the envelope (42_modulation.md R161). -/
theorem recompute_increment_of_envFrame {x y : Voice} (h : EnvFrame x y) :
    (recompute cfg rate y).phaseIncrement = (recompute cfg rate x).phaseIncrement := by
  rw [h]
  rfl

/-- Before any tick the vibrato is at phase 0, where SIN is 0, and the arpeggio at its first entry. -/
theorem recompute_increment_noteStart (adm : cfg.Admissible) :
    (recompute cfg rate (noteStart note velocity v)).phaseIncrement =
      noteIncrement cfg rate note v.instrument := by
  have noVibrato : vibCents cfg (noteStart note velocity v) = 0 := by
    simp [vibCents, noteStart, adm.sin_zero]
  simp only [recompute, frequency, noVibrato, zero_add]
  rfl

/-- NOTE_ON moves the envelope and else writes the values of a note that starts. -/
theorem startNote_started (adm : cfg.Admissible) :
    NoteStarted cfg rate note velocity v (startNote cfg rate note velocity v) := by
  have fr : EnvFrame (noteStart note velocity v)
      (endIfEmpty (enterAttack (noteStart note velocity v))) :=
    (enterAttack_frame _).trans (endIfEmpty_frame _)
  exact
    { storage := ⟨fr.allocated, fr.loaded, fr.instrument,
        fun a => congrArg (Memory.read? · a) fr.sram⟩
      tickAccumulator := fr.tickAccumulator
      baseNote := fr.baseNote
      velocity := fr.velocity
      oscillatorPhase := fr.oscillatorPhase
      sequencerStep := fr.sequencerStep
      sequencerTickCounter := fr.sequencerTickCounter
      activeWave := fr.activeWave
      arpeggioIndex := fr.arpeggioIndex
      vibratoPhase := fr.vibratoPhase
      vibratoDelayRemaining := fr.vibratoDelayRemaining
      phaseIncrement := (recompute_increment_of_envFrame rate fr).trans
        (recompute_increment_noteStart rate note velocity v adm) }

/-- Whatever EnvEnter(Attack) passes through, it counts from 0 (41_envelope.md R131). -/
theorem enterAttack_envelopeTicks : (enterAttack v).envelopeTicks = 0 := by
  unfold enterAttack enterDecay enterSustain
  dsimp only
  split_ifs <;> rfl

/-- On an empty sample the envelope ends Off, with the tick count of the attack it entered (R122). -/
theorem startNote_empty (hk : v.instrument.kind = .pcmSample)
    (hl : v.instrument.sampleLength = 0) :
    (startNote cfg rate note velocity v).active = false ∧
    (startNote cfg rate note velocity v).envelopeState = .off ∧
    (startNote cfg rate note velocity v).envelopeVolume = 0 ∧
    (startNote cfg rate note velocity v).envelopeTicks = 0 := by
  have instr : (enterAttack (noteStart note velocity v)).instrument = v.instrument :=
    (enterAttack_frame _).instrument
  have ended : endIfEmpty (enterAttack (noteStart note velocity v)) =
      forceOff (enterAttack (noteStart note velocity v)) :=
    endIfEmpty_of_empty (by rw [instr, hk]) (by rw [instr, hl])
  rw [startNote, ended]
  exact ⟨rfl, rfl, rfl, enterAttack_envelopeTicks _⟩

end

/-- Settles O31. -/
theorem noteOnEmptySampleStaysOff : Obligations.NoteOnEmptySampleStaysOff := by
  intro s v note velocity hv hld hk hl
  have st := startNote_started s.sampleRate.toNat note velocity (s.voice v) hw_admissible
  obtain ⟨inactive, off, volume, ticks⟩ := startNote_empty (cfg := Config.hw) s.sampleRate.toNat note
    velocity (s.voice v) hk hl
  exact ⟨_, _, noteOn_of_loaded hv hld note velocity, setVoice_voice_self s v _,
    setVoice_respond_kept s v _ _, rfl, st.storage, st.tickAccumulator, st.baseNote, st.velocity,
    st.oscillatorPhase, st.sequencerStep, st.sequencerTickCounter, st.activeWave, st.arpeggioIndex,
    st.vibratoPhase, st.vibratoDelayRemaining, inactive, off, volume, ticks, st.phaseIncrement⟩

end Sys2Proof.Proofs

/-! PROOFS of the family 41_envelope: the transitions and ramps of the envelope, and the notes that only
a command ends. -/

namespace Sys2Proof.Proofs

open Sys2Proof.Machine Sys2Proof.Laws

/-! ## Entering a phase (41_envelope.md R131) -/

section
variable {v : Voice}

theorem enterRelease_of_zero (h : v.instrument.releaseLength = 0) :
    enterRelease v =
      { v with envelopeState := .off, envelopeTicks := 0, envelopeVolume := 0, active := false } :=
  if_pos h

theorem enterRelease_of_ne_zero (h : v.instrument.releaseLength ≠ 0) :
    enterRelease v = { v with envelopeState := .release, envelopeTicks := 0 } :=
  if_neg h

/-- Whatever EnvEnter(Decay) passes through, it counts from 0. -/
theorem enterDecay_envelopeTicks (v : Voice) : (enterDecay v).envelopeTicks = 0 := by
  unfold enterDecay
  dsimp only
  split <;> rfl

theorem enterDecay_envelopeState (v : Voice) :
    (enterDecay v).envelopeState = if v.instrument.decayLength = 0 then .sustain else .decay := by
  unfold enterDecay
  dsimp only
  split <;> rfl

theorem enterDecay_envelopeVolume (v : Voice) :
    (enterDecay v).envelopeVolume =
      if v.instrument.decayLength = 0 then level v.instrument.sustainLevel else v.envelopeVolume := by
  unfold enterDecay
  dsimp only
  split <;> rfl

theorem enterDecay_state (v : Voice) :
    (enterDecay v).envelopeState = .decay ∨ (enterDecay v).envelopeState = .sustain := by
  rw [enterDecay_envelopeState]
  split
  · exact .inr rfl
  · exact .inl rfl

theorem enterRelease_state (v : Voice) :
    (enterRelease v).envelopeState = .release ∨ (enterRelease v).envelopeState = .off := by
  by_cases h : v.instrument.releaseLength = 0
  · rw [enterRelease_of_zero h]; exact .inr rfl
  · rw [enterRelease_of_ne_zero h]; exact .inl rfl

theorem enterAttack_releasable (v : Voice) : (enterAttack v).envelopeState.releasable = true := by
  unfold enterAttack
  dsimp only
  split
  · rcases enterDecay_state { v with
      envelopeState := .attack, envelopeTicks := 0
      envelopeVolume := level v.instrument.attackLevel } with h | h <;> rw [h] <;> rfl
  · rfl

/-! ## The tests that end a phase (R135, R136, R138) -/

/-- The test of the next AttackStep: the level is reached, or the length has passed (R135). -/
def AttackEnds (v : Voice) : Prop :=
  level v.instrument.attackLevel ≤
      v.envelopeVolume + level v.instrument.attackLevel / level v.instrument.attackLength ∨
    v.instrument.attackLength.toNat ≤ v.envelopeTicks + 1

/-- The test of the next DecayStep (R136). -/
def DecayEnds (v : Voice) : Prop :=
  v.envelopeVolume - (level v.instrument.attackLevel - level v.instrument.decayLevel) /
      level v.instrument.decayLength ≤ level v.instrument.decayLevel ∨
    v.instrument.decayLength.toNat ≤ v.envelopeTicks + 1

/-- The test of the next ReleaseStep (R138). -/
def ReleaseStops (v : Voice) : Prop :=
  v.envelopeVolume - level v.instrument.sustainLevel / level v.instrument.releaseLength ≤ 0 ∨
    v.instrument.releaseLength.toNat ≤ v.envelopeTicks + 1

/-! ## One tick, an equation for each state and branch (R133 to R139) -/

theorem envClamp_of_range (h0 : 0 ≤ v.envelopeVolume) (h1 : v.envelopeVolume ≤ maxVolume) :
    envClamp v = v := by
  unfold envClamp
  split
  · rfl
  · rw [clampQ_id h0 h1]

theorem envTick_of_off (st : v.envelopeState = .off) : envTick v = v := by
  simp only [envTick, envStep, st, envClamp, if_true]

theorem envTick_attack_ends (st : v.envelopeState = .attack) (h : AttackEnds v) :
    envTick v = envClamp (enterDecay { v with envelopeVolume := level v.instrument.attackLevel }) := by
  have step : envStep v = attackStep v := by simp only [envStep, st]
  rw [envTick, step]
  exact congrArg envClamp (if_pos h)

theorem envTick_attack_climbs (st : v.envelopeState = .attack) (h : ¬ AttackEnds v) :
    envTick v = envClamp { v with
      envelopeTicks := v.envelopeTicks + 1
      envelopeVolume :=
        v.envelopeVolume + level v.instrument.attackLevel / level v.instrument.attackLength } := by
  have step : envStep v = attackStep v := by simp only [envStep, st]
  rw [envTick, step]
  exact congrArg envClamp (if_neg h)

theorem envTick_decay_ends (st : v.envelopeState = .decay) (h : DecayEnds v) :
    envTick v = envClamp (enterSustain v) := by
  have step : envStep v = decayStep v := by simp only [envStep, st]
  rw [envTick, step]
  exact congrArg envClamp (if_pos h)

theorem envTick_decay_falls (st : v.envelopeState = .decay) (h : ¬ DecayEnds v) :
    envTick v = envClamp { v with
      envelopeTicks := v.envelopeTicks + 1
      envelopeVolume := v.envelopeVolume -
        (level v.instrument.attackLevel - level v.instrument.decayLevel) /
          level v.instrument.decayLength } := by
  have step : envStep v = decayStep v := by simp only [envStep, st]
  rw [envTick, step]
  exact congrArg envClamp (if_neg h)

theorem envTick_sustain_endless (st : v.envelopeState = .sustain)
    (h : v.instrument.sustainLength = 0) :
    envTick v = envClamp { v with envelopeVolume := level v.instrument.sustainLevel } := by
  have step : envStep v = sustainStep v := by simp only [envStep, st]
  rw [envTick, step]
  exact congrArg envClamp (if_pos h)

theorem envTick_sustain_holds (st : v.envelopeState = .sustain)
    (h : v.envelopeTicks + 1 < v.instrument.sustainLength.toNat) :
    envTick v = envClamp { v with
      envelopeVolume := level v.instrument.sustainLevel, envelopeTicks := v.envelopeTicks + 1 } := by
  have step : envStep v = sustainStep v := by simp only [envStep, st]
  have hne : v.instrument.sustainLength ≠ 0 := (byte_ne_zero_iff _).mpr (by omega)
  rw [envTick, step]
  exact congrArg envClamp ((if_neg hne).trans (if_neg (not_le.mpr h)))

theorem envTick_sustain_ends (st : v.envelopeState = .sustain)
    (hne : v.instrument.sustainLength ≠ 0)
    (h : v.instrument.sustainLength.toNat ≤ v.envelopeTicks + 1) :
    envTick v =
      envClamp (enterRelease { v with envelopeVolume := level v.instrument.sustainLevel }) := by
  have step : envStep v = sustainStep v := by simp only [envStep, st]
  rw [envTick, step]
  exact congrArg envClamp ((if_neg hne).trans (if_pos h))

theorem envTick_release_stops (st : v.envelopeState = .release) (h : ReleaseStops v) :
    envTick v = { v with
      envelopeTicks := v.envelopeTicks + 1
      envelopeVolume := 0, envelopeState := .off, active := false } := by
  have step : envStep v = releaseStep v := by simp only [envStep, st]
  rw [envTick, step]
  exact congrArg envClamp (if_pos h)

theorem envTick_release_falls (st : v.envelopeState = .release) (h : ¬ ReleaseStops v) :
    envTick v = envClamp { v with
      envelopeTicks := v.envelopeTicks + 1
      envelopeVolume := v.envelopeVolume -
        level v.instrument.sustainLevel / level v.instrument.releaseLength } := by
  have step : envStep v = releaseStep v := by simp only [envStep, st]
  rw [envTick, step]
  exact congrArg envClamp (if_neg h)

/-! ## The transitions of one tick (R130) -/

theorem envTick_state_of_attack (st : v.envelopeState = .attack) :
    (envTick v).envelopeState = .attack ∨ (envTick v).envelopeState = .decay ∨
      (envTick v).envelopeState = .sustain := by
  by_cases h : AttackEnds v
  · rw [envTick_attack_ends st h, envClamp_envelopeState]
    exact .inr (enterDecay_state _)
  · rw [envTick_attack_climbs st h, envClamp_envelopeState]
    exact .inl st

theorem envTick_state_of_decay (st : v.envelopeState = .decay) :
    (envTick v).envelopeState = .decay ∨ (envTick v).envelopeState = .sustain := by
  by_cases h : DecayEnds v
  · rw [envTick_decay_ends st h, envClamp_envelopeState]
    exact .inr rfl
  · rw [envTick_decay_falls st h, envClamp_envelopeState]
    exact .inl st

theorem envTick_state_of_sustain (st : v.envelopeState = .sustain) :
    (envTick v).envelopeState = .sustain ∨ (v.instrument.sustainLength ≠ 0 ∧
      ((envTick v).envelopeState = .release ∨ (envTick v).envelopeState = .off)) := by
  by_cases hz : v.instrument.sustainLength = 0
  · rw [envTick_sustain_endless st hz, envClamp_envelopeState]
    exact .inl st
  · by_cases h : v.instrument.sustainLength.toNat ≤ v.envelopeTicks + 1
    · rw [envTick_sustain_ends st hz h, envClamp_envelopeState]
      exact .inr ⟨hz, enterRelease_state _⟩
    · rw [envTick_sustain_holds st (not_le.mp h), envClamp_envelopeState]
      exact .inl st

theorem envTick_state_of_release (st : v.envelopeState = .release) :
    (envTick v).envelopeState = .release ∨ (envTick v).envelopeState = .off := by
  by_cases h : ReleaseStops v
  · rw [envTick_release_stops st h]
    exact .inr rfl
  · rw [envTick_release_falls st h, envClamp_envelopeState]
    exact .inl st

end

/-- Settles O48. -/
theorem envelopeTransitions : Obligations.EnvelopeTransitions := fun _ =>
  ⟨envTick_of_off, envTick_state_of_attack, envTick_state_of_decay, envTick_state_of_sustain,
    envTick_state_of_release⟩

/-! ## A note without a sustain duration, voice by voice (R130, R137, R142)

A good voice that is `Held` is in Attack, Decay or Sustain, the states NOTE_OFF acts in. -/

theorem envTick_releasable {v : Voice} (h : v.envelopeState.releasable = true)
    (hz : v.instrument.sustainLength = 0) : (envTick v).envelopeState.releasable = true := by
  cases st : v.envelopeState with
  | off => rw [st] at h; cases h
  | attack => rcases envTick_state_of_attack st with e | e | e <;> rw [e] <;> rfl
  | decay => rcases envTick_state_of_decay st with e | e <;> rw [e] <;> rfl
  | sustain =>
    rcases envTick_state_of_sustain st with e | ⟨ne, _⟩
    · rw [e]; rfl
    · exact absurd hz ne
  | release => rw [st] at h; cases h

theorem tick_envelopeState (cfg : Config) (rate : Nat) (v : Voice) :
    (tick cfg rate v).envelopeState = (envTick v).envelopeState := by
  unfold tick
  dsimp only
  split
  · rfl
  · exact ((vibTick_frame cfg _).trans ((arpTick_frame _).trans
      ((seqTick_frame cfg _).trans (recompute_frame cfg rate _)))).envelopeState

theorem schedule_releasable (cfg : Config) (rate : Nat) {v : Voice}
    (h : v.envelopeState.releasable = true) (hz : v.instrument.sustainLength = 0) :
    (schedule cfg rate v).envelopeState.releasable = true := by
  unfold schedule
  dsimp only
  split
  · rw [tick_envelopeState]
    exact envTick_releasable h hz
  · exact h

/-- On a synth or a looping sample AdvancePhase moves the phase alone (43_oscillator.md R173, R176). -/
theorem advancePhase_of_endless (cfg : Config) {v : Voice}
    (h : v.instrument.kind = .wavetableSynth ∨ 1 < v.instrument.loopLength.toNat) :
    ∃ q, advancePhase cfg v = { v with oscillatorPhase := q } := by
  cases hk : v.instrument.kind with
  | wavetableSynth => simp only [advancePhase, hk]; exact ⟨_, rfl⟩
  | pcmSample =>
    have hl : 1 < v.instrument.loopLength.toNat := h.resolve_left (by simp [hk])
    simp only [advancePhase, hk, hl, if_true]
    exact ⟨_, rfl⟩

section
variable {v w : Voice}

theorem held_releasable (h : v.Held) (g : v.EnvelopeGood) :
    v.envelopeState.releasable = true := by
  have notOff : v.envelopeState ≠ .off := fun st => by
    have := g.off_iff.mp st
    rw [h.active] at this
    cases this
  have notReleased := h.notReleased
  cases st : v.envelopeState with
  | off => exact absurd st notOff
  | release => exact absurd st notReleased
  | attack | decay | sustain => rfl

theorem held_of_releasable (h : v.Held) (g : w.EnvelopeGood) (hi : w.instrument = v.instrument)
    (hr : w.envelopeState.releasable = true) : w.Held where
  active := active_of_state (EnvReady.of_good g) fun st => by rw [st] at hr; cases hr
  notReleased st := by rw [st] at hr; cases hr
  noDuration := hi ▸ h.noDuration
  endless := hi ▸ h.endless

theorem held_of_oscillatorPhase (h : v.Held) (q : ℚ) :
    Voice.Held { v with oscillatorPhase := q } :=
  ⟨h.active, h.notReleased, h.noDuration, h.endless⟩

end

section
variable {cfg : Config} (adm : cfg.Admissible) {rate : Nat} {v : Voice}
include adm

/-- A sample of a held note gives a frame and leaves the note held (44_render.md R190). -/
theorem renderSample_held (hr : tickHz ≤ rate) (g : v.Good cfg) (h : v.Held) :
    ∃ w f, renderSample cfg rate v = .ok (w, some f) ∧ w.Good cfg ∧ w.Held := by
  have gs : (schedule cfg rate v).Good cfg := schedule_good adm hr g
  have hs : (schedule cfg rate v).Held :=
    held_of_releasable h gs.envelope (schedule_frame cfg rate v).instrument
      (schedule_releasable cfg rate (held_releasable h g.envelope) h.noDuration)
  obtain ⟨a, ha⟩ := produceSample_ok gs hs.active
  obtain ⟨q, hq⟩ := advancePhase_of_endless cfg hs.endless
  refine ⟨advancePhase cfg (schedule cfg rate v), scaledFrame (schedule cfg rate v) a, ?_,
    advancePhase_good adm gs (gs.envelope.active_loaded hs.active), ?_⟩
  · simp [renderSample, hs.active, ha]
  · rw [hq]
    exact held_of_oscillatorPhase hs q

theorem renderLoop_held (hr : tickHz ≤ rate) (n : Nat) (g : v.Good cfg) (h : v.Held) :
    ∃ w fs, renderLoop cfg rate n v = .ok (w, fs) ∧ w.Held := by
  induction n generalizing v with
  | zero => exact ⟨v, [], rfl, h⟩
  | succ n ih =>
    obtain ⟨w, f, hsample, gw, hw⟩ := renderSample_held adm hr g h
    obtain ⟨u, fs, hloop, hu⟩ := ih gw hw
    exact ⟨u, f :: fs, by simp [renderLoop, h.active, hsample, hloop], hu⟩

/-- A looping sample of a good voice is not empty, so NOTE_ON again does not end it (R122, R216). -/
theorem startNote_held (rate : Nat) (note velocity : SevenBit) (g : v.Good cfg) (h : v.Held) :
    (startNote cfg rate note velocity v).Held := by
  have ld := g.envelope.active_loaded h.active
  have instr : (enterAttack (noteStart note velocity v)).instrument = v.instrument :=
    (enterAttack_frame _).instrument
  have notEmpty : ¬ (v.instrument.kind = .pcmSample ∧ v.instrument.sampleLength = 0) := by
    rintro ⟨hk, hz⟩
    have hl : 1 < v.instrument.loopLength.toNat := h.endless.resolve_left (by simp [hk])
    have inside := (g.storage.legal ld).loopInside (by omega)
    have empty : v.instrument.sampleLength.toNat = 0 := by rw [hz]; rfl
    rw [loopEnd] at inside
    omega
  have sounds : endIfEmpty (enterAttack (noteStart note velocity v)) =
      enterAttack (noteStart note velocity v) := if_neg (by rw [instr]; exact notEmpty)
  refine held_of_releasable h (startNote_good adm rate note velocity g ld).envelope
    (startNote_started rate note velocity v adm).storage.instrument ?_
  rw [startNote, sounds]
  exact enterAttack_releasable _

end

theorem writeParam_held {v : Voice} (h : v.Held) (index : Byte) (value : BitVec 16) :
    Voice.Held { v with instrument := writeParam v.instrument index value } := by
  rcases writeParam_cases v.instrument index value with e | ⟨_, d, s, p, e⟩ | ⟨_, l, _, e⟩ <;>
    rw [e] <;> exact ⟨h.active, h.notReleased, h.noDuration, h.endless⟩

/-! ## What each command does to a held note -/

/-- Where an outcome is a next state, voice v is held in it. -/
def HeldOutcome (v : Handle) : Host.Outcome State Fault Refusal → Prop
  | .next t => (t.voice v).Held
  | .fault _ => True
  | .refused _ => True

section
variable {cfg : Config} {s : State} {v : Handle}

theorem setVoice_held {x : Voice} (h : x.Held) (r : Word) (fs : List Frame) :
    HeldOutcome v (.next ((s.setVoice v x).replyWith r fs)) := by
  show (((s.setVoice v x).replyWith r fs).voice v).Held
  rw [replyWith_voice, setVoice_voice_self]
  exact h

/-- CREATE_VOICE takes a slot that is not allocated, and a held voice is (R213). -/
theorem createVoiceWith_held (g : s.Good cfg) (h : (s.voice v).Held) :
    HeldOutcome v (createVoiceWith cfg s) := by
  unfold createVoiceWith
  split
  · split
    · rename_i u hu
      obtain ⟨_, free, _⟩ := freeHandle?_some hu
      have allocated : (s.voice v).allocated = true :=
        (g.voices v).storage.allocated ((g.voices v).envelope.active_loaded h.active)
      have ne : v ≠ u := fun e => by
        rw [e, free] at allocated
        cases allocated
      show ((s.resetSlot u true).voice v).Held
      rw [resetSlot_voice_ne _ _ _ _ ne]
      exact h
    · exact h
  · exact h

theorem noteOnWith_held (adm : cfg.Admissible) (g : s.Good cfg) (h : (s.voice v).Held)
    (note velocity : SevenBit) : HeldOutcome v (noteOnWith cfg v note velocity s) := by
  unfold noteOnWith
  split
  · exact setVoice_held (startNote_held adm _ note velocity (g.voices v) h) _ []
  · exact h

theorem renderWith_held (adm : cfg.Admissible) (g : s.Good cfg) (h : (s.voice v).Held)
    (n : Operand) : HeldOutcome v (renderWith cfg v n s) := by
  unfold renderWith
  split
  · rename_i hv
    obtain ⟨hvalid, _, _⟩ := validHandle_spec hv
    obtain ⟨w, frames, hloop, hw⟩ := renderLoop_held adm (g.rate hvalid) n.toNat (g.voices v) h
    rw [hloop]
    exact setVoice_held hw _ _
  · exact h

theorem setParamWith_held (h : (s.voice v).Held) (index : Byte) (value : BitVec 16) :
    HeldOutcome v (setParamWith cfg v index value s) := by
  unfold setParamWith
  split
  · exact setVoice_held (writeParam_held h index value) _ []
  · exact h

theorem getParamWith_held (h : (s.voice v).Held) (index : Byte) :
    HeldOutcome v (getParamWith cfg v index s) := by
  unfold getParamWith
  split <;> exact h

theorem execInit_held (h : (s.voice v).Held) {rate : Operand} (hr : ¬ 50 ≤ rate.toNat) :
    HeldOutcome v (execInit rate s) := by
  have refused : rate.toNat < tickHz := not_le.mp hr
  rw [execInit, if_pos refused]
  exact h

end

section
variable {s t : State} {v : Handle} {i : Instr}

/-- A command addressed to another voice (10_state.md R59). -/
theorem exec_held_of_other (h : (s.voice v).Held) {u : Handle} (target : targetVoice i = some u)
    (ne : v ≠ u) : HeldOutcome v (exec i s) := by
  cases hexec : exec i s with
  | next t =>
    obtain ⟨kept, _⟩ := commandConfinedToItsVoice i u s t target hexec
    show (t.voice v).Held
    rw [kept.others v ne]
    exact h
  | fault e => trivial
  | refused r => trivial

theorem exec_held (g : s.Good Config.hw) (h : (s.voice v).Held) (keeps : ¬ endsNote v i) :
    HeldOutcome v (exec i s) := by
  by_cases other : ∃ u, targetVoice i = some u ∧ v ≠ u
  · obtain ⟨u, target, ne⟩ := other
    exact exec_held_of_other h target ne
  have addressed : ∀ u, targetVoice i = some u → v = u := fun u target =>
    not_not.mp fun ne => other ⟨u, target, ne⟩
  cases i with
  | init rate => exact execInit_held h keeps
  | dispose => exact absurd trivial keeps
  | createVoice => exact createVoiceWith_held g h
  | destroyVoice u => exact absurd (addressed u rfl).symm keeps
  | loadInstrument u payload => exact absurd (addressed u rfl).symm keeps
  | noteOn u note velocity =>
    cases addressed u rfl
    exact noteOnWith_held hw_admissible g h note velocity
  | noteOff u => exact absurd (addressed u rfl).symm keeps
  | render u n =>
    cases addressed u rfl
    exact renderWith_held hw_admissible g h n
  | setParam u index value =>
    cases addressed u rfl
    exact setParamWith_held h index value
  | getParam u index =>
    cases addressed u rfl
    exact getParamWith_held h index

theorem exec_next_held (g : s.Good Config.hw) (h : (s.voice v).Held) (keeps : ¬ endsNote v i)
    (hexec : exec i s = .next t) : t.Good Config.hw ∧ (t.voice v).Held := by
  have good := exec_good g i
  have held := exec_held g h keeps
  rw [hexec] at good held
  exact ⟨good, held⟩

end

/-- Settles O47: a step waits, performs a command, or answers a reserved opcode, and each keeps the
note. -/
theorem noteWithoutDurationHolds : Obligations.NoteWithoutDurationHolds := by
  refine ⟨fun s t v g h keeps hstep => ?_, fun s v n g h => ?_⟩
  · rcases step_cases hstep with ⟨_, rfl⟩ | ⟨c, rest, hc, ⟨i, hdecode, hexec⟩ | ⟨_, rfl⟩⟩
    · exact ⟨g, h⟩
    · exact exec_next_held (taken_good g rest) h (keeps c rest i hc hdecode) hexec
    · exact ⟨respond_good (taken_good g rest) _, h⟩
  · obtain ⟨t, ht⟩ := exec_next_of_good g (.render v n)
    exact ⟨t, ht, exec_next_held g h id ht⟩

/-! ## Ramps: ticks along a line -/

/-- The voice k ticks into a phase, at volume q. -/
def atTick (v : Voice) (k : ℕ) (q : ℚ) : Voice := { v with envelopeTicks := k, envelopeVolume := q }

section
variable {v : Voice} {line : ℕ → ℚ} {n : ℕ}

theorem atTick_self {k : ℕ} {q : ℚ} (ht : v.envelopeTicks = k) (hq : v.envelopeVolume = q) :
    atTick v k q = v := by
  subst ht hq
  rfl

/-- From the start of a line that each tick before the n-th follows, k ticks reach its k-th point. -/
theorem iterate_envTick_along (start : atTick v 0 (line 0) = v)
    (step : ∀ k, k + 1 < n → envTick (atTick v k (line k)) = atTick v (k + 1) (line (k + 1))) :
    ∀ k < n, envTick^[k] v = atTick v k (line k) := by
  intro k
  induction k with
  | zero => exact fun _ => start.symm
  | succ k ih =>
    intro hk
    rw [Function.iterate_succ_apply', ih (by omega), step k hk]

/-- The n-th tick starts at the last point of such a line. -/
theorem iterate_envTick_past (start : atTick v 0 (line 0) = v) (pos : 0 < n)
    (step : ∀ k, k + 1 < n → envTick (atTick v k (line k)) = atTick v (k + 1) (line (k + 1))) :
    envTick^[n] v = envTick (atTick v (n - 1) (line (n - 1))) := by
  obtain ⟨m, rfl⟩ := Nat.exists_eq_succ_of_ne_zero pos.ne'
  rw [Function.iterate_succ_apply', iterate_envTick_along start step m (by omega)]
  rfl

end

/-- The ticks a straight ramp of a given height and length takes: a flat one ends in its first tick. -/
def rampTicks (height : ℚ) (length : ℕ) : ℕ := if height = 0 then 1 else length

section
variable {height : ℚ} {length : ℕ}

theorem rampTicks_pos (pos : 0 < length) : 0 < rampTicks height length := by
  unfold rampTicks
  split
  · exact Nat.one_pos
  · exact pos

theorem ramp_succ (k : ℕ) :
    k * height / length + height / length = (k + 1 : ℕ) * height / length := by
  push_cast
  ring

/-- A ramp of equal parts has its height when its ticks are over, and not before. -/
theorem ramp_reaches_iff (h0 : 0 ≤ height) (pos : 0 < length) (k : ℕ) :
    (height ≤ (k + 1 : ℕ) * height / length ∨ length ≤ k + 1) ↔
      rampTicks height length ≤ k + 1 := by
  have posq : (0 : ℚ) < length := by exact_mod_cast pos
  by_cases flat : height = 0
  · simp [rampTicks, flat]
  · have rise : 0 < height := lt_of_le_of_ne h0 (Ne.symm flat)
    have reached : height ≤ (k + 1 : ℕ) * height / length ↔ length ≤ k + 1 := by
      rw [le_div_iff₀ posq, mul_comm, mul_le_mul_iff_of_pos_right rise, Nat.cast_le]
    rw [reached, or_self, rampTicks, if_neg flat]

theorem ramp_nonneg (h0 : 0 ≤ height) (k : ℕ) : 0 ≤ k * height / length := by positivity

end

section
variable {v : Voice}

theorem level_inj {a b : Byte} : level a = level b ↔ a = b := by
  rw [level, level, Nat.cast_inj, BitVec.toNat_inj]

theorem level_eq_zero_iff (b : Byte) : level b = 0 ↔ b = 0 := by
  rw [level, Nat.cast_eq_zero, byte_eq_zero_iff]

theorem level_pos_iff (b : Byte) : 0 < level b ↔ 0 < b.toNat := by
  rw [level, Nat.cast_pos]

/-! ## The attack (R135) -/

/-- The volume k ticks into an Attack from volume 0. -/
def attackLine (x : Instrument) (k : ℕ) : ℚ := k * level x.attackLevel / level x.attackLength

/-- The ticks an Attack from volume 0 takes. -/
def attackTicks (x : Instrument) : ℕ := rampTicks (level x.attackLevel) x.attackLength.toNat

theorem attackLine_succ (x : Instrument) (k : ℕ) :
    attackLine x k + level x.attackLevel / level x.attackLength = attackLine x (k + 1) :=
  ramp_succ k

theorem attackEnds_iff (pos : 0 < v.instrument.attackLength.toNat) (k : ℕ) :
    AttackEnds (atTick v k (attackLine v.instrument k)) ↔ attackTicks v.instrument ≤ k + 1 := by
  rw [attackTicks, ← ramp_reaches_iff (level_nonneg _) pos k, ← ramp_succ]
  rfl

theorem envTick_along_attack (st : v.envelopeState = .attack)
    (pos : 0 < v.instrument.attackLength.toNat)
    (hlevel : v.instrument.attackLevel.toNat ≤ maxVolume) {k : ℕ}
    (hk : k + 1 < attackTicks v.instrument) :
    envTick (atTick v k (attackLine v.instrument k)) =
      atTick v (k + 1) (attackLine v.instrument (k + 1)) := by
  have goesOn : ¬ AttackEnds (atTick v k (attackLine v.instrument k)) := by
    rw [attackEnds_iff pos]
    omega
  have below : attackLine v.instrument (k + 1) < level v.instrument.attackLevel := by
    rw [← attackLine_succ]
    exact not_le.mp fun h => goesOn (.inl h)
  calc envTick (atTick v k (attackLine v.instrument k))
      = envClamp (atTick v (k + 1) (attackLine v.instrument k +
          level v.instrument.attackLevel / level v.instrument.attackLength)) :=
        envTick_attack_climbs st goesOn
    _ = envClamp (atTick v (k + 1) (attackLine v.instrument (k + 1))) := by rw [attackLine_succ]
    _ = atTick v (k + 1) (attackLine v.instrument (k + 1)) :=
        envClamp_of_range (ramp_nonneg (level_nonneg _) _) (below.le.trans (level_le hlevel))

/-- What follows the last tick of an Attack. -/
theorem envTick_attack_last (st : v.envelopeState = .attack)
    (pos : 0 < v.instrument.attackLength.toNat)
    (hlevel : v.instrument.attackLevel.toNat ≤ maxVolume)
    (hsustain : v.instrument.sustainLevel.toNat ≤ maxVolume) {k : ℕ}
    (hk : attackTicks v.instrument ≤ k + 1) :
    envTick (atTick v k (attackLine v.instrument k)) =
      enterDecay { v with envelopeVolume := level v.instrument.attackLevel } := by
  rw [envTick_attack_ends (v := atTick v k _) st ((attackEnds_iff pos k).mpr hk)]
  refine envClamp_of_range ?_ ?_ <;> rw [enterDecay_envelopeVolume] <;> split
  · exact level_nonneg _
  · exact level_nonneg _
  · exact level_le hsustain
  · exact level_le hlevel

end

/-- Settles O49: the volume follows the line until the test of R135 holds. -/
theorem attackRamp : Obligations.AttackRamp := by
  intro v n st volume ticks pos hlevel hsustain hn
  have ticksEq : attackTicks v.instrument = n := by
    rw [hn]
    exact if_congr (level_eq_zero_iff _) rfl rfl
  have start : atTick v 0 (attackLine v.instrument 0) = v :=
    atTick_self ticks (by rw [volume]; simp [attackLine])
  have step : ∀ k, k + 1 < n →
      envTick (atTick v k (attackLine v.instrument k)) =
        atTick v (k + 1) (attackLine v.instrument (k + 1)) :=
    fun k hk => envTick_along_attack st pos hlevel (ticksEq ▸ hk)
  have last : envTick^[n] v =
      enterDecay { v with envelopeVolume := level v.instrument.attackLevel } := by
    rw [iterate_envTick_past start (ticksEq ▸ rampTicks_pos pos) step]
    exact envTick_attack_last st pos hlevel hsustain (by omega)
  refine ⟨fun k hk => ?_, ?_, fun hne => ?_, fun hz => ?_⟩
  · rw [iterate_envTick_along start step k hk]
    exact ⟨st, rfl, rfl⟩
  · rw [last]
    exact enterDecay_envelopeTicks _
  · rw [last, enterDecay_envelopeState, enterDecay_envelopeVolume, if_neg hne, if_neg hne]
    exact ⟨rfl, rfl⟩
  · rw [last, enterDecay_envelopeState, enterDecay_envelopeVolume, if_pos hz, if_pos hz]
    exact ⟨rfl, rfl⟩

section
variable {v : Voice}

/-! ## The decay (R136) -/

/-- How far a Decay falls from the attack level. -/
def decayDrop (x : Instrument) : ℚ := level x.attackLevel - level x.decayLevel

/-- The volume k ticks into a Decay from the attack level. -/
def decayLine (x : Instrument) (k : ℕ) : ℚ :=
  level x.attackLevel - k * decayDrop x / level x.decayLength

/-- The ticks a Decay from the attack level takes. -/
def decayTicks (x : Instrument) : ℕ := rampTicks (decayDrop x) x.decayLength.toNat

theorem decayDrop_nonneg {x : Instrument} (h : x.decayLevel.toNat ≤ x.attackLevel.toNat) :
    0 ≤ decayDrop x :=
  sub_nonneg.mpr (Nat.cast_le.mpr h)

theorem decayLine_succ (x : Instrument) (k : ℕ) :
    decayLine x k - (level x.attackLevel - level x.decayLevel) / level x.decayLength =
      decayLine x (k + 1) := by
  have succ : k * decayDrop x / level x.decayLength + decayDrop x / level x.decayLength =
      (k + 1 : ℕ) * decayDrop x / level x.decayLength := ramp_succ k
  rw [decayLine, decayLine, ← succ, ← sub_sub]
  rfl

theorem decayEnds_iff (pos : 0 < v.instrument.decayLength.toNat)
    (hle : v.instrument.decayLevel.toNat ≤ v.instrument.attackLevel.toNat) (k : ℕ) :
    DecayEnds (atTick v k (decayLine v.instrument k)) ↔ decayTicks v.instrument ≤ k + 1 := by
  rw [decayTicks, ← ramp_reaches_iff (decayDrop_nonneg hle) pos k]
  refine or_congr_left ?_
  show decayLine v.instrument k - (level v.instrument.attackLevel -
    level v.instrument.decayLevel) / level v.instrument.decayLength ≤ _ ↔ _
  rw [decayLine_succ, decayLine, sub_le_comm]
  rfl

theorem envTick_along_decay (st : v.envelopeState = .decay)
    (pos : 0 < v.instrument.decayLength.toNat)
    (hle : v.instrument.decayLevel.toNat ≤ v.instrument.attackLevel.toNat)
    (hlevel : v.instrument.attackLevel.toNat ≤ maxVolume) {k : ℕ}
    (hk : k + 1 < decayTicks v.instrument) :
    envTick (atTick v k (decayLine v.instrument k)) =
      atTick v (k + 1) (decayLine v.instrument (k + 1)) := by
  have goesOn : ¬ DecayEnds (atTick v k (decayLine v.instrument k)) := by
    rw [decayEnds_iff pos hle]
    omega
  have above : level v.instrument.decayLevel < decayLine v.instrument (k + 1) := by
    rw [← decayLine_succ]
    exact not_le.mp fun h => goesOn (.inl h)
  have fallen : decayLine v.instrument (k + 1) ≤ level v.instrument.attackLevel :=
    sub_le_self _ (ramp_nonneg (decayDrop_nonneg hle) _)
  calc envTick (atTick v k (decayLine v.instrument k))
      = envClamp (atTick v (k + 1) (decayLine v.instrument k -
          (level v.instrument.attackLevel - level v.instrument.decayLevel) /
            level v.instrument.decayLength)) :=
        envTick_decay_falls st goesOn
    _ = envClamp (atTick v (k + 1) (decayLine v.instrument (k + 1))) := by rw [decayLine_succ]
    _ = atTick v (k + 1) (decayLine v.instrument (k + 1)) :=
        envClamp_of_range ((level_nonneg _).trans above.le) (fallen.trans (level_le hlevel))

theorem envTick_decay_last (st : v.envelopeState = .decay)
    (pos : 0 < v.instrument.decayLength.toNat)
    (hle : v.instrument.decayLevel.toNat ≤ v.instrument.attackLevel.toNat)
    (hsustain : v.instrument.sustainLevel.toNat ≤ maxVolume) {k : ℕ}
    (hk : decayTicks v.instrument ≤ k + 1) :
    envTick (atTick v k (decayLine v.instrument k)) = enterSustain v := by
  rw [envTick_decay_ends (v := atTick v k _) st ((decayEnds_iff pos hle k).mpr hk)]
  exact envClamp_of_range (level_nonneg _) (level_le hsustain)

end

/-- Settles O50: the volume follows the line until the test of R136 holds. -/
theorem decayRamp : Obligations.DecayRamp := by
  intro v n st ticks volume pos hle hlevel hsustain hn
  have flat_iff : decayDrop v.instrument = 0 ↔
      v.instrument.decayLevel = v.instrument.attackLevel := by
    rw [decayDrop, sub_eq_zero, level_inj, eq_comm]
  have ticksEq : decayTicks v.instrument = n := by
    rw [hn]
    exact if_congr flat_iff rfl rfl
  have start : atTick v 0 (decayLine v.instrument 0) = v :=
    atTick_self ticks (by rw [volume]; simp [decayLine, level])
  have step : ∀ k, k + 1 < n →
      envTick (atTick v k (decayLine v.instrument k)) =
        atTick v (k + 1) (decayLine v.instrument (k + 1)) :=
    fun k hk => envTick_along_decay st pos hle hlevel (ticksEq ▸ hk)
  have last : envTick^[n] v = enterSustain v := by
    rw [iterate_envTick_past start (ticksEq ▸ rampTicks_pos pos) step]
    exact envTick_decay_last st pos hle hsustain (by omega)
  refine ⟨fun k hk => ?_, ?_⟩
  · rw [iterate_envTick_along start step k hk]
    exact ⟨st, rfl, rfl⟩
  · rw [last]
    exact ⟨rfl, rfl, rfl⟩

/-! ## The sustain (R137) -/

section
variable {v : Voice}

/-- The volume k ticks into a Sustain: as it was, until the first tick writes the level. -/
def sustainLine (v : Voice) : ℕ → ℚ
  | 0 => v.envelopeVolume
  | _ + 1 => level v.instrument.sustainLevel

theorem envTick_along_sustain (st : v.envelopeState = .sustain)
    (hlevel : v.instrument.sustainLevel.toNat ≤ maxVolume) {k : ℕ} (q : ℚ)
    (hk : k + 1 < v.instrument.sustainLength.toNat) :
    envTick (atTick v k q) = atTick v (k + 1) (level v.instrument.sustainLevel) := by
  rw [envTick_sustain_holds (v := atTick v k q) st hk]
  exact envClamp_of_range (level_nonneg _) (level_le hlevel)

theorem iterate_envTick_sustain (st : v.envelopeState = .sustain) (ticks : v.envelopeTicks = 0)
    (hlevel : v.instrument.sustainLevel.toNat ≤ maxVolume) {k : ℕ}
    (hk : k < v.instrument.sustainLength.toNat) :
    envTick^[k] v = atTick v k (sustainLine v k) :=
  iterate_envTick_along (atTick_self ticks rfl)
    (fun j hj => envTick_along_sustain st hlevel (sustainLine v j) hj) k hk

theorem iterate_envTick_sustain_last (st : v.envelopeState = .sustain) (ticks : v.envelopeTicks = 0)
    (hlevel : v.instrument.sustainLevel.toNat ≤ maxVolume) (hne : v.instrument.sustainLength ≠ 0) :
    envTick^[v.instrument.sustainLength.toNat] v =
      envClamp (enterRelease { v with envelopeVolume := level v.instrument.sustainLevel }) := by
  rw [iterate_envTick_past (atTick_self ticks rfl) ((byte_ne_zero_iff _).mp hne)
    fun j hj => envTick_along_sustain st hlevel (sustainLine v j) hj]
  have last : v.instrument.sustainLength.toNat ≤ v.instrument.sustainLength.toNat - 1 + 1 := by
    omega
  exact envTick_sustain_ends (v := atTick v (v.instrument.sustainLength.toNat - 1) _) st hne last

theorem envTick_sustain_settles (st : v.envelopeState = .sustain)
    (hlevel : v.instrument.sustainLevel.toNat ≤ maxVolume) (hz : v.instrument.sustainLength = 0) :
    envTick v = { v with envelopeVolume := level v.instrument.sustainLevel } := by
  rw [envTick_sustain_endless st hz]
  exact envClamp_of_range (level_nonneg _) (level_le hlevel)

/-- The first tick writes the level; from there a tick changes nothing. -/
theorem iterate_envTick_sustain_endless (st : v.envelopeState = .sustain)
    (hlevel : v.instrument.sustainLevel.toNat ≤ maxVolume) (hz : v.instrument.sustainLength = 0)
    (k : ℕ) :
    envTick^[k + 1] v = { v with envelopeVolume := level v.instrument.sustainLevel } := by
  rw [Function.iterate_succ_apply, envTick_sustain_settles st hlevel hz]
  exact Function.iterate_fixed (envTick_sustain_settles
    (v := { v with envelopeVolume := level v.instrument.sustainLevel }) st hlevel hz) k

end

/-- Settles O51. -/
theorem sustainLasts : Obligations.SustainLasts := by
  intro v st ticks hlevel
  refine ⟨fun k hz => iterate_envTick_sustain_endless st hlevel hz k,
    fun k hk => iterate_envTick_sustain st ticks hlevel hk, fun hne hr => ?_, fun hne hr => ?_⟩
  · rw [iterate_envTick_sustain_last st ticks hlevel hne, enterRelease_of_ne_zero (by exact hr)]
    exact envClamp_of_range (level_nonneg _) (level_le hlevel)
  · rw [iterate_envTick_sustain_last st ticks hlevel hne, enterRelease_of_zero (by exact hr)]
    exact ⟨rfl, rfl⟩

/-! ## The release (R138, R141) -/

/-- The volume k ticks into a Release, as long as that is above 0. -/
def releaseLine (v : Voice) (k : ℕ) : ℚ :=
  v.envelopeVolume - k * (level v.instrument.sustainLevel / level v.instrument.releaseLength)

/-- The voice v, k ticks into its Release: at most at the line (the clamp may cut what is above 64),
and above 0 from the first tick on. -/
structure Releasing (v : Voice) (k : ℕ) (w : Voice) : Prop where
  state : w.envelopeState = .release
  ticks : w.envelopeTicks = k
  instrument : w.instrument = v.instrument
  unfinished : k < v.instrument.releaseLength.toNat
  volume_nonneg : 0 ≤ w.envelopeVolume
  volume_pos : 1 ≤ k → 0 < w.envelopeVolume
  volume_le : w.envelopeVolume ≤ releaseLine v k

/-- A voice whose Release is over (R132). -/
structure Silenced (w : Voice) : Prop where
  state : w.envelopeState = .off
  volume : w.envelopeVolume = 0
  inactive : w.active = false

section
variable {v w : Voice}

theorem releaseLine_zero (v : Voice) : releaseLine v 0 = v.envelopeVolume := by
  simp [releaseLine]

theorem releaseLine_succ (v : Voice) (k : ℕ) :
    releaseLine v (k + 1) =
      releaseLine v k - level v.instrument.sustainLevel / level v.instrument.releaseLength := by
  unfold releaseLine
  push_cast
  ring

theorem releaseLine_antitone (v : Voice) : Antitone (releaseLine v) := by
  refine antitone_nat_of_succ_le fun k => ?_
  rw [releaseLine_succ]
  exact sub_le_self _ (div_nonneg (level_nonneg _) (level_nonneg _))

theorem clampQ_pos {x : ℚ} (h : 0 < x) : 0 < clampQ x 0 maxVolume :=
  lt_max_of_lt_right (lt_min (by norm_num [maxVolume]) h)

theorem clampQ_le {x : ℚ} (h : 0 ≤ x) : clampQ x 0 maxVolume ≤ x :=
  max_le h (min_le_right _ _)

/-- What one tick of a Release does: ForceOff, or a fall that leaves the volume above 0. -/
theorem envTick_release_cases (st : w.envelopeState = .release) :
    Silenced (envTick w) ∨
    ((envTick w).envelopeState = .release ∧
      (envTick w).envelopeTicks = w.envelopeTicks + 1 ∧
      w.envelopeTicks + 1 < w.instrument.releaseLength.toNat ∧
      0 < (envTick w).envelopeVolume ∧
      (envTick w).envelopeVolume ≤ w.envelopeVolume -
        level w.instrument.sustainLevel / level w.instrument.releaseLength) := by
  by_cases h : ReleaseStops w
  · rw [envTick_release_stops st h]
    exact .inl ⟨rfl, rfl, rfl⟩
  · obtain ⟨above, unfinished⟩ := not_or.mp h
    have volume : (envTick w).envelopeVolume = clampQ (w.envelopeVolume -
        level w.instrument.sustainLevel / level w.instrument.releaseLength) 0 maxVolume := by
      rw [envTick_release_falls st h, envClamp, if_neg (by simp [st])]
    refine .inr ⟨?_, ?_, not_le.mp unfinished, ?_, ?_⟩
    · rw [envTick_release_falls st h, envClamp_envelopeState]
      exact st
    · rw [envTick_release_falls st h, envClamp_envelopeTicks]
    · rw [volume]
      exact clampQ_pos (not_le.mp above)
    · rw [volume]
      exact clampQ_le (not_le.mp above).le

theorem Releasing.after_tick {k : ℕ} (h : Releasing v k w) :
    Releasing v (k + 1) (envTick w) ∨ Silenced (envTick w) := by
  rcases envTick_release_cases h.state with off | ⟨state, ticks, unfinished, positive, volume⟩
  · exact .inr off
  · have below := h.volume_le
    rw [h.ticks] at ticks
    rw [h.ticks, h.instrument] at unfinished
    rw [h.instrument] at volume
    refine .inl ⟨state, ticks, (envTick_frame w).instrument.trans h.instrument, unfinished,
      positive.le, fun _ => positive, ?_⟩
    rw [releaseLine_succ]
    linarith

theorem Silenced.after_tick (h : Silenced w) : envTick w = w := envTick_of_off h.state

/-- A Release goes on, or is over for good. -/
theorem iterate_envTick_release (st : v.envelopeState = .release) (ticks : v.envelopeTicks = 0)
    (h0 : 0 ≤ v.envelopeVolume) (pos : 0 < v.instrument.releaseLength.toNat) (k : ℕ) :
    Releasing v k (envTick^[k] v) ∨ Silenced (envTick^[k] v) := by
  induction k with
  | zero =>
    exact .inl ⟨st, ticks, rfl, pos, h0, fun h => absurd h (by omega), (releaseLine_zero v).ge⟩
  | succ k ih =>
    rw [Function.iterate_succ_apply']
    rcases ih with on | off
    · exact on.after_tick
    · rw [off.after_tick]
      exact .inr off

theorem Releasing.volume_le_after_tick {k : ℕ} (h : Releasing v k w) :
    (envTick w).envelopeVolume ≤ w.envelopeVolume := by
  rcases envTick_release_cases h.state with off | ⟨_, _, _, _, volume⟩
  · rw [off.volume]
    exact h.volume_nonneg
  · exact volume.trans (sub_le_self _ (div_nonneg (level_nonneg _) (level_nonneg _)))

/-- Releasing excludes both ends that R138 names. -/
theorem Releasing.not_ended {k : ℕ} (h : Releasing v k w) (hk : 1 ≤ k) :
    ¬ (v.instrument.releaseLength.toNat ≤ k ∨ releaseLine v k ≤ 0) := by
  rintro (length | line)
  · exact absurd h.unfinished (not_lt.mpr length)
  · exact absurd (h.volume_le.trans line) (not_le.mpr (h.volume_pos hk))

/-- From a volume the clamp leaves alone, a Release stays on its line while that is above 0. -/
theorem iterate_envTick_release_line (st : v.envelopeState = .release) (ticks : v.envelopeTicks = 0)
    (h1 : v.envelopeVolume ≤ maxVolume) {k : ℕ} (hk : k < v.instrument.releaseLength.toNat)
    (above : 0 < releaseLine v k) : envTick^[k] v = atTick v k (releaseLine v k) := by
  refine iterate_envTick_along (n := k + 1) (atTick_self ticks (releaseLine_zero v).symm)
    (fun j hj => ?_) k (Nat.lt_succ_self k)
  have positive : 0 < releaseLine v (j + 1) :=
    above.trans_le (releaseLine_antitone v (by omega))
  have inRange : releaseLine v (j + 1) ≤ maxVolume :=
    (releaseLine_antitone v (Nat.zero_le _)).trans ((releaseLine_zero v).le.trans h1)
  have goesOn : ¬ ReleaseStops (atTick v j (releaseLine v j)) := by
    rintro (line | length)
    · rw [releaseLine_succ] at positive
      exact absurd line (not_le.mpr positive)
    · exact absurd (lt_of_le_of_lt length hj |>.trans_le hk) (lt_irrefl _)
  calc envTick (atTick v j (releaseLine v j))
      = envClamp (atTick v (j + 1) (releaseLine v j -
          level v.instrument.sustainLevel / level v.instrument.releaseLength)) :=
        envTick_release_falls st goesOn
    _ = envClamp (atTick v (j + 1) (releaseLine v (j + 1))) := by rw [releaseLine_succ]
    _ = atTick v (j + 1) (releaseLine v (j + 1)) := envClamp_of_range positive.le inRange

/-- From the sustain level the line reaches 0 at the last tick, and not before. -/
theorem releaseLine_pos_of_sustain (volume : v.envelopeVolume = level v.instrument.sustainLevel)
    (hs : 0 < level v.instrument.sustainLevel) {k : ℕ}
    (hk : k < v.instrument.releaseLength.toNat) : 0 < releaseLine v k := by
  have fewer : (k : ℚ) < level v.instrument.releaseLength := by
    unfold level
    exact_mod_cast hk
  have pos : 0 < level v.instrument.releaseLength := lt_of_le_of_lt k.cast_nonneg fewer
  rw [releaseLine, volume, sub_pos, ← mul_div_assoc, div_lt_iff₀ pos, mul_comm]
  exact mul_lt_mul_of_pos_left fewer hs

end

/-- Settles O52: each tick of a Release falls by one step or ends it, and on the line none is clamped. -/
theorem releaseEnds : Obligations.ReleaseEnds := by
  intro v st ticks h0 pos
  have after := iterate_envTick_release st ticks h0 pos
  have ended : ∀ k, 1 ≤ k → (v.instrument.releaseLength.toNat ≤ k ∨ releaseLine v k ≤ 0) →
      Silenced (envTick^[k] v) :=
    fun k hk h => (after k).resolve_left fun on => on.not_ended hk h
  refine ⟨fun k => ?_, fun k hk h1 above => ?_, fun k hk h => ?_,
    fun volume hs h1 => ⟨fun k hk => ?_, ?_⟩⟩
  · rw [Function.iterate_succ_apply']
    rcases after k with on | off
    · exact on.volume_le_after_tick
    · rw [off.after_tick]
  · rw [iterate_envTick_release_line st ticks h1 hk above]
    exact ⟨st, rfl, rfl⟩
  · have off := ended k hk h
    exact ⟨off.state, off.volume, off.inactive⟩
  · have inRange : v.envelopeVolume ≤ maxVolume := volume.trans_le (level_le h1)
    rw [iterate_envTick_release_line st ticks inRange hk
      (releaseLine_pos_of_sustain volume ((level_pos_iff _).mpr hs) hk)]
    exact st
  · exact (ended _ pos (.inl le_rfl)).state

end Sys2Proof.Proofs

/-! PROOFS of the family 42_modulation: that no datapath command reads a sequencer entry's transpose or
effect, and the vibrato, the arpeggio, the wave sequencer and the pitch from tick to tick. -/

namespace Sys2Proof.Proofs

open Sys2Proof.Machine Sys2Proof.Laws

/-! ## Transpose and effect, voice by voice (42_modulation.md R158) -/

/-- Clearing the transpose and effect fields before `f` or after it comes to the same: `f` neither reads
nor writes them. -/
abbrev IgnoresUnused (f : Voice → Voice) : Prop := Function.Commute f withoutTransposeAndEffect

/-- The wave is the field of an entry that stays (R25). -/
@[simp] theorem withoutTransposeAndEffect_wave (v : Voice) (k : Fin 16) :
    (withoutTransposeAndEffect v).instrument.seq[k].wave = v.instrument.seq[k].wave := by
  simp [withoutTransposeAndEffect]

/-! ### The envelope -/

theorem forceOff_ignoresUnused : IgnoresUnused forceOff := fun _ => rfl

theorem enterRelease_ignoresUnused : IgnoresUnused enterRelease := fun v => by
  unfold enterRelease
  rw [apply_ite withoutTransposeAndEffect]
  rfl

theorem enterSustain_ignoresUnused : IgnoresUnused enterSustain := fun _ => rfl

theorem enterDecay_ignoresUnused : IgnoresUnused enterDecay := fun v => by
  unfold enterDecay
  rw [apply_ite withoutTransposeAndEffect]
  rfl

theorem enterAttack_ignoresUnused : IgnoresUnused enterAttack := fun v => by
  unfold enterAttack
  rw [apply_ite withoutTransposeAndEffect, ← enterDecay_ignoresUnused.eq]
  rfl

theorem attackStep_ignoresUnused : IgnoresUnused attackStep := fun v => by
  unfold attackStep
  rw [apply_ite withoutTransposeAndEffect, ← enterDecay_ignoresUnused.eq]
  rfl

theorem decayStep_ignoresUnused : IgnoresUnused decayStep := fun v => by
  unfold decayStep
  rw [apply_ite withoutTransposeAndEffect]
  rfl

theorem sustainStep_ignoresUnused : IgnoresUnused sustainStep := fun v => by
  unfold sustainStep
  rw [apply_ite withoutTransposeAndEffect, apply_ite withoutTransposeAndEffect,
    ← enterRelease_ignoresUnused.eq]
  rfl

theorem releaseStep_ignoresUnused : IgnoresUnused releaseStep := fun v => by
  unfold releaseStep
  rw [apply_ite withoutTransposeAndEffect]
  rfl

theorem envStep_ignoresUnused : IgnoresUnused envStep := fun v => by
  have state : (withoutTransposeAndEffect v).envelopeState = v.envelopeState := rfl
  unfold envStep
  rw [state]
  cases v.envelopeState with
  | off => rfl
  | attack => exact attackStep_ignoresUnused v
  | decay => exact decayStep_ignoresUnused v
  | sustain => exact sustainStep_ignoresUnused v
  | release => exact releaseStep_ignoresUnused v

theorem envClamp_ignoresUnused : IgnoresUnused envClamp := fun v => by
  unfold envClamp
  rw [apply_ite withoutTransposeAndEffect]
  rfl

theorem envTick_ignoresUnused : IgnoresUnused envTick :=
  envClamp_ignoresUnused.comp_left envStep_ignoresUnused

/-! ### Modulation and pitch -/

section
variable (cfg : Config) (rate : Nat)

theorem vibTick_ignoresUnused : IgnoresUnused (vibTick cfg) := fun v => by
  unfold vibTick
  rw [apply_ite withoutTransposeAndEffect]
  rfl

theorem arpTick_ignoresUnused : IgnoresUnused arpTick := fun v => by
  unfold arpTick
  rw [apply_ite withoutTransposeAndEffect]
  rfl

theorem seqAdvance_ignoresUnused : IgnoresUnused (seqAdvance cfg) := fun v => by
  unfold seqAdvance
  dsimp only
  rw [withoutTransposeAndEffect_wave]
  rfl

theorem seqTick_ignoresUnused : IgnoresUnused (seqTick cfg) := fun v => by
  unfold seqTick
  rw [apply_ite withoutTransposeAndEffect, apply_ite withoutTransposeAndEffect,
    ← (seqAdvance_ignoresUnused cfg).eq]
  rfl

theorem recompute_ignoresUnused : IgnoresUnused (recompute cfg rate) := fun _ => rfl

/-! ### RENDER and NOTE_ON -/

theorem tick_ignoresUnused : IgnoresUnused (tick cfg rate) := fun v => by
  have modulation :
      IgnoresUnused fun w => recompute cfg rate (seqTick cfg (arpTick (vibTick cfg w))) :=
    (recompute_ignoresUnused cfg rate).comp_left <| (seqTick_ignoresUnused cfg).comp_left <|
      arpTick_ignoresUnused.comp_left <| vibTick_ignoresUnused cfg
  unfold tick
  rw [envTick_ignoresUnused.eq, apply_ite withoutTransposeAndEffect, ← modulation.eq]
  rfl

theorem schedule_ignoresUnused : IgnoresUnused (schedule cfg rate) := fun v => by
  unfold schedule
  rw [apply_ite withoutTransposeAndEffect, ← (tick_ignoresUnused cfg rate).eq]
  rfl

theorem endCheck_ignoresUnused : IgnoresUnused endCheck := fun v => by
  unfold endCheck
  rw [apply_ite withoutTransposeAndEffect]
  rfl

theorem advancePhase_ignoresUnused : IgnoresUnused (advancePhase cfg) := fun v => by
  have kind : (withoutTransposeAndEffect v).instrument.kind = v.instrument.kind := rfl
  unfold advancePhase
  dsimp only
  rw [kind]
  cases v.instrument.kind with
  | wavetableSynth => rfl
  | pcmSample =>
    dsimp only
    rw [apply_ite withoutTransposeAndEffect, ← endCheck_ignoresUnused.eq]
    rfl

theorem endIfEmpty_ignoresUnused : IgnoresUnused endIfEmpty := fun v => by
  unfold endIfEmpty
  rw [apply_ite withoutTransposeAndEffect]
  rfl

theorem startNote_ignoresUnused (note velocity : SevenBit) :
    IgnoresUnused (startNote cfg rate note velocity) :=
  have start : IgnoresUnused (noteStart note velocity) := fun _ => rfl
  (recompute_ignoresUnused cfg rate).comp_left <| endIfEmpty_ignoresUnused.comp_left <|
    enterAttack_ignoresUnused.comp_left start

/-- The amplitude and its frame are those of the voice as it is; only the voice after differs. -/
theorem renderSample_withoutUnused (v : Voice) :
    renderSample cfg rate (withoutTransposeAndEffect v) =
      (renderSample cfg rate v).map (Prod.map withoutTransposeAndEffect id) := by
  have amplitude (w : Voice) :
      produceSample cfg (withoutTransposeAndEffect w) = produceSample cfg w := rfl
  unfold renderSample
  dsimp only
  rw [(schedule_ignoresUnused cfg rate).eq, (advancePhase_ignoresUnused cfg).eq, amplitude,
    apply_ite (Except.map _)]
  cases produceSample cfg (schedule cfg rate v) <;> rfl

theorem renderLoop_withoutUnused (n : Nat) : ∀ v,
    renderLoop cfg rate n (withoutTransposeAndEffect v) =
      (renderLoop cfg rate n v).map (Prod.map withoutTransposeAndEffect id) := by
  induction n with
  | zero => exact fun _ => rfl
  | succ n ih =>
    intro v
    cases ac : v.active with
    | false => rw [renderLoop_inactive ac, renderLoop_inactive (by exact ac)]; rfl
    | true =>
      have ac' : (withoutTransposeAndEffect v).active = true := ac
      rw [renderLoop, renderLoop, if_pos ac, if_pos ac', renderSample_withoutUnused]
      rcases renderSample cfg rate v with e | ⟨w, _ | f⟩
      · rfl
      · rfl
      · simp only [Except.map, Prod.map, id, ih]
        cases renderLoop cfg rate n w <;> rfl

end

/-- SET_PARAM writes no sequencer entry (45_host_commands.md R221). -/
theorem writeParam_seq (x : Instrument) (seq : Vector SeqEntry 16) (index : Byte)
    (value : BitVec 16) :
    writeParam { x with seq := seq } index value = { writeParam x index value with seq := seq } := by
  unfold writeParam
  dsimp only
  split <;> split_ifs <;> rfl

theorem writeParam_keeps_seq (x : Instrument) (index : Byte) (value : BitVec 16) :
    (writeParam x index value).seq = x.seq := by
  rcases writeParam_cases x index value with h | ⟨_, _, _, _, h⟩ | ⟨_, _, _, h⟩ <;> rw [h]

theorem setParam_ignoresUnused (index : Byte) (value : BitVec 16) :
    IgnoresUnused fun v => { v with instrument := writeParam v.instrument index value } := fun v => by
  have seq := writeParam_keeps_seq v.instrument index value
  unfold withoutTransposeAndEffect
  dsimp only
  rw [writeParam_seq, seq]

/-! ## Transpose and effect, command by command (R158) -/

/-- The state with the transpose and effect fields of voice v 0. -/
def clearUnused (v : Handle) (s : State) : State :=
  s.setVoice v (withoutTransposeAndEffect (s.voice v))

/-- The same of an outcome that is a next state. -/
def clearUnusedNext (v : Handle) :
    Host.Outcome State Fault Refusal → Host.Outcome State Fault Refusal
  | .next t => .next (clearUnused v t)
  | o => o

theorem setVoice_setVoice (s : State) (v : Handle) (x y : Voice) :
    (s.setVoice v x).setVoice v y = s.setVoice v y := by
  simp [State.setVoice]

section
variable {cfg : Config} {v : Handle} (s : State)

@[simp] theorem clearUnused_voice_self :
    (clearUnused v s).voice v = withoutTransposeAndEffect (s.voice v) :=
  setVoice_voice_self s v _

theorem clearUnused_kept : KeptBut v s (clearUnused v s) :=
  ⟨rfl, rfl, fun u ne => setVoice_voice_ne s u v _ ne, rfl⟩

/-- Writing a cleared voice over the cleared one is clearing the voice once written. -/
theorem clearUnused_setVoice (x : Voice) :
    (clearUnused v s).setVoice v (withoutTransposeAndEffect x) = clearUnused v (s.setVoice v x) := by
  rw [clearUnused, clearUnused, setVoice_setVoice, setVoice_setVoice, setVoice_voice_self]

theorem validHandle_clearUnused : validHandle cfg (clearUnused v s) v = validHandle cfg s v := by
  unfold validHandle
  rw [clearUnused_voice_self]
  rfl

theorem holdsInstrument_clearUnused :
    holdsInstrument cfg (clearUnused v s) v = holdsInstrument cfg s v := by
  unfold holdsInstrument
  rw [validHandle_clearUnused, clearUnused_voice_self]
  rfl

/-- A command that replaces the voice by what such an f makes of it, and replies. -/
theorem setVoice_clearUnused {f : Voice → Voice} (blind : IgnoresUnused f) (r : Word)
    (frames : List Frame) :
    ((clearUnused v s).setVoice v (f ((clearUnused v s).voice v))).replyWith r frames =
      clearUnused v ((s.setVoice v (f (s.voice v))).replyWith r frames) := by
  rw [clearUnused_voice_self, blind.eq, clearUnused_setVoice]
  rfl

theorem noteOnWith_clearUnused (note velocity : SevenBit) :
    noteOnWith cfg v note velocity (clearUnused v s) =
      clearUnusedNext v (noteOnWith cfg v note velocity s) := by
  unfold noteOnWith
  rw [holdsInstrument_clearUnused]
  split
  · exact congrArg _ (setVoice_clearUnused s (startNote_ignoresUnused cfg _ note velocity) _ _)
  · rfl

theorem noteOffWith_clearUnused :
    noteOffWith cfg v (clearUnused v s) = clearUnusedNext v (noteOffWith cfg v s) := by
  have state : ((clearUnused v s).voice v).envelopeState = (s.voice v).envelopeState := by
    rw [clearUnused_voice_self]
    rfl
  unfold noteOffWith
  rw [validHandle_clearUnused, state]
  split
  · exact congrArg _ (setVoice_clearUnused s enterRelease_ignoresUnused _ _)
  · rfl

theorem setParamWith_clearUnused (index : Byte) (value : BitVec 16) :
    setParamWith cfg v index value (clearUnused v s) =
      clearUnusedNext v (setParamWith cfg v index value s) := by
  unfold setParamWith
  rw [holdsInstrument_clearUnused]
  split
  · exact congrArg _ (setVoice_clearUnused s (setParam_ignoresUnused index value) _ _)
  · rfl

theorem renderWith_clearUnused (n : Operand) :
    renderWith cfg v n (clearUnused v s) = clearUnusedNext v (renderWith cfg v n s) := by
  have rate : (clearUnused v s).sampleRate = s.sampleRate := rfl
  unfold renderWith
  rw [validHandle_clearUnused, clearUnused_voice_self, rate, renderLoop_withoutUnused]
  split
  · rcases renderLoop cfg s.sampleRate.toNat n.toNat (s.voice v) with e | ⟨w, frames⟩
    · rfl
    · exact congrArg (fun t => Host.Outcome.next (t.replyWith statusOk frames))
        (clearUnused_setVoice s w)
  · rfl

theorem exec_clearUnused {i : Instr} (drives : drivesDatapath v i) :
    exec i (clearUnused v s) = clearUnusedNext v (exec i s) := by
  cases i with
  | noteOn u note velocity => cases drives; exact noteOnWith_clearUnused s note velocity
  | noteOff u => cases drives; exact noteOffWith_clearUnused s
  | render u n => cases drives; exact renderWith_clearUnused s n
  | setParam u index value => cases drives; exact setParamWith_clearUnused s index value
  | _ => cases drives

end

/-- Settles O46: clearing the two fields commutes with the four commands. -/
theorem transposeAndEffectUnused : Obligations.TransposeAndEffectUnused := by
  intro s t v i drives hexec
  exact ⟨clearUnused v t, (exec_clearUnused s drives).trans (congrArg _ hexec), rfl,
    clearUnused_kept t, clearUnused_voice_self t⟩

/-! ## Vibrato (R151) -/

section
variable (cfg : Config) {v : Voice}

/-- What one tick adds to the phase of the LFO. -/
def vibratoIncrement (cfg : Config) (v : Voice) : ℚ :=
  (v.instrument.vibratoSpeed.toNat : ℚ) / cfg.vibSteps

theorem vibTick_waits (h : 0 < v.vibratoDelayRemaining) :
    vibTick cfg v = { v with vibratoDelayRemaining := v.vibratoDelayRemaining - 1 } := if_pos h

theorem vibTick_turns (h : v.vibratoDelayRemaining = 0) :
    vibTick cfg v =
      { v with vibratoPhase := subtractWhile (v.vibratoPhase + vibratoIncrement cfg v) 1 1 } :=
  if_neg h.not_gt

theorem iterate_vibTick_waits (v : Voice) : ∀ k ≤ v.vibratoDelayRemaining,
    (vibTick cfg)^[k] v = { v with vibratoDelayRemaining := v.vibratoDelayRemaining - k } := by
  intro k
  induction k with
  | zero => exact fun _ => rfl
  | succ k ih =>
    intro hk
    rw [Function.iterate_succ_apply', ih (by omega)]
    exact vibTick_waits cfg (Nat.sub_pos_of_lt hk)

/-- After the delay k ticks have moved the phase by k increments less whole cycles, and nothing else. -/
theorem iterate_vibTick_turns (h : v.vibratoDelayRemaining = 0) (h0 : 0 ≤ v.vibratoPhase)
    (h1 : v.vibratoPhase < 1) (k : ℕ) :
    ∃ (cycles : ℕ) (q : ℚ), (vibTick cfg)^[k] v = { v with vibratoPhase := q } ∧
      q = v.vibratoPhase + k * vibratoIncrement cfg v - cycles ∧ 0 ≤ q ∧ q < 1 := by
  induction k with
  | zero => exact ⟨0, v.vibratoPhase, rfl, by simp, h0, h1⟩
  | succ k ih =>
    obtain ⟨cycles, q, reached, hq, q0, _⟩ := ih
    have inc : 0 ≤ vibratoIncrement cfg v := div_nonneg (Nat.cast_nonneg _) (Nat.cast_nonneg _)
    obtain ⟨more, wrapped, below, _⟩ :=
      subtractWhile_spec (q + vibratoIncrement cfg v) 1 one_pos
    refine ⟨cycles + more, subtractWhile (q + vibratoIncrement cfg v) 1 1, ?_, ?_,
      subtractWhile_nonneg one_pos (add_nonneg q0 inc) le_rfl, below⟩
    · rw [Function.iterate_succ_apply', reached]
      exact vibTick_turns cfg (v := { v with vibratoPhase := q }) h
    · rw [wrapped, hq]
      push_cast
      ring

end

/-- Settles O53. -/
theorem vibratoDelayThenAdvance : Obligations.VibratoDelayThenAdvance := by
  intro v h0 h1
  refine ⟨iterate_vibTick_waits Config.hw v, fun k => ?_⟩
  have waited := iterate_vibTick_waits Config.hw v _ le_rfl
  rw [Nat.sub_self] at waited
  obtain ⟨cycles, q, reached, hq, q0, q1⟩ := iterate_vibTick_turns Config.hw
    (v := { v with vibratoDelayRemaining := 0 }) rfl h0 h1 k
  rw [Nat.add_comm, Function.iterate_add_apply, waited, reached]
  exact ⟨cycles, hq, q0, q1⟩

/-! ## Arpeggio (R154) -/

section
variable {v : Voice} {len : ℕ}

/-- A table index counted modulo a length the table has room for (R25, R26). -/
def cycleIndex (len n : ℕ) : Fin 16 := Fin.ofNat 16 (n % len)

theorem cycleIndex_val (pos : 0 < len) (hlen : len ≤ 16) (n : ℕ) :
    (cycleIndex len n).val = n % len :=
  Nat.mod_eq_of_lt ((Nat.mod_lt n pos).trans_le hlen)

theorem cycleIndex_self (hlen : len ≤ 16) {i : Fin 16} (hi : i.val < len) :
    cycleIndex len i.val = i := by
  apply Fin.ext
  rw [cycleIndex_val (Nat.zero_lt_of_lt hi) hlen, Nat.mod_eq_of_lt hi]

theorem cycleIndex_succ (pos : 0 < len) (hlen : len ≤ 16) (n : ℕ) :
    cycleIndex len ((cycleIndex len n).val + 1) = cycleIndex len (n + 1) := by
  rw [cycleIndex_val pos hlen, cycleIndex, cycleIndex, Nat.mod_add_mod]

theorem arpTick_of_zero (h : v.instrument.arpeggioLength = 0) : arpTick v = v :=
  if_neg fun pos => (byte_ne_zero_iff _).mpr pos h

theorem arpTick_of_pos (pos : 0 < v.instrument.arpeggioLength.toNat) :
    arpTick v =
      { v with
        arpeggioIndex := cycleIndex v.instrument.arpeggioLength.toNat (v.arpeggioIndex.val + 1) } :=
  if_pos pos

theorem iterate_arpTick (pos : 0 < v.instrument.arpeggioLength.toNat)
    (hlen : v.instrument.arpeggioLength.toNat ≤ 16)
    (start : v.arpeggioIndex.val < v.instrument.arpeggioLength.toNat) (k : ℕ) :
    arpTick^[k] v =
      { v with
        arpeggioIndex := cycleIndex v.instrument.arpeggioLength.toNat (v.arpeggioIndex.val + k) } := by
  induction k with
  | zero => rw [Nat.add_zero, cycleIndex_self hlen start]; rfl
  | succ k ih =>
    have next := cycleIndex_succ pos hlen (v.arpeggioIndex.val + k)
    rw [Function.iterate_succ_apply', ih, ← Nat.add_assoc, ← next]
    exact arpTick_of_pos pos

end

/-- Settles O55. -/
theorem arpeggioCycles : Obligations.ArpeggioCycles := by
  intro v
  refine ⟨arpTick_of_zero, fun pos hlen start k => ?_⟩
  rw [iterate_arpTick pos hlen start k]
  exact ⟨cycleIndex_val pos hlen _, rfl⟩

/-! ## Wave sequencer (R157) -/

section
variable (cfg : Config) {v : Voice}

theorem seqTick_disabled
    (h : v.instrument.sequencerSpeed = 0 ∨ v.instrument.sequencerLength = 0) :
    seqTick cfg v = v := by
  refine if_neg fun running => ?_
  obtain ⟨length, speed⟩ := running
  rcases h with h | h
  · exact (byte_ne_zero_iff _).mpr speed h
  · exact (byte_ne_zero_iff _).mpr length h

/-- The sequencer runs: it has a speed and a table (R157). -/
structure Sequencing (x : Instrument) : Prop where
  speed : 0 < x.sequencerSpeed.toNat
  length : 0 < x.sequencerLength.toNat

theorem seqTick_counts (on : Sequencing v.instrument)
    (h : v.sequencerTickCounter + 1 < v.instrument.sequencerSpeed.toNat) :
    seqTick cfg v = { v with sequencerTickCounter := v.sequencerTickCounter + 1 } :=
  (if_pos ⟨on.length, on.speed⟩).trans (if_neg h.not_ge)

/-- The advance writes the counter itself, so that the count that led to it is not seen. -/
theorem seqTick_advances (on : Sequencing v.instrument)
    (h : v.instrument.sequencerSpeed.toNat ≤ v.sequencerTickCounter + 1) :
    seqTick cfg v = seqAdvance cfg v :=
  (if_pos ⟨on.length, on.speed⟩).trans (if_pos h)

end

section
variable (cfg : Config) (v : Voice)

/-! ### The advance -/

@[simp] theorem seqAdvance_instrument : (seqAdvance cfg v).instrument = v.instrument := rfl
@[simp] theorem seqAdvance_sequencerTickCounter : (seqAdvance cfg v).sequencerTickCounter = 0 := rfl
@[simp] theorem seqAdvance_activeWave :
    (seqAdvance cfg v).activeWave = v.instrument.seq[v.sequencerStep].wave := rfl
theorem seqAdvance_sequencerStep :
    (seqAdvance cfg v).sequencerStep =
      cycleIndex v.instrument.sequencerLength.toNat (v.sequencerStep.val + 1) := rfl

variable {cfg v}

/-- What the advance writes, with the re-wrap of the phase by whole lengths of the new wave. -/
theorem seqAdvance_eq (adm : cfg.Admissible) (pos : 0 < v.instrument.sequencerLength.toNat)
    (hlen : v.instrument.sequencerLength.toNat ≤ 16) :
    ∃ (wave : Byte) (next : Fin 16) (q : ℚ) (m : ℕ),
      seqAdvance cfg v =
        { v with
          sequencerTickCounter := 0, activeWave := wave, sequencerStep := next,
          oscillatorPhase := q } ∧
      wave = v.instrument.seq[v.sequencerStep].wave ∧
      next.val = (v.sequencerStep.val + 1) % v.instrument.sequencerLength.toNat ∧
      q = v.oscillatorPhase - m * cfg.waveLen wave.toNat ∧
      q < cfg.waveLen wave.toNat ∧
      (v.oscillatorPhase < cfg.waveLen wave.toNat → m = 0) ∧
      (0 ≤ v.oscillatorPhase → 0 ≤ q) := by
  have amount : (0 : ℚ) < cfg.waveLen v.instrument.seq[v.sequencerStep].wave.toNat := by
    exact_mod_cast adm.waveLen_pos _
  obtain ⟨m, wrapped, below, _, none⟩ := subtractWhile_spec v.oscillatorPhase _ amount
  exact ⟨_, _, _, m, rfl, rfl, cycleIndex_val pos hlen _, wrapped, below, none,
    fun h0 => subtractWhile_nonneg amount h0 le_rfl⟩

/-! ### Periods of sequencerSpeed ticks -/

/-- Below sequencerSpeed the ticks of a step only count. -/
theorem iterate_seqTick_counts (on : Sequencing v.instrument) (start : v.sequencerTickCounter = 0) :
    ∀ j < v.instrument.sequencerSpeed.toNat,
      (seqTick cfg)^[j] v = { v with sequencerTickCounter := j } := by
  intro j
  induction j with
  | zero => exact fun _ => by rw [Function.iterate_zero_apply, ← start]
  | succ j ih =>
    intro hj
    rw [Function.iterate_succ_apply', ih (by omega)]
    exact seqTick_counts cfg (v := { v with sequencerTickCounter := j }) on hj

/-- sequencerSpeed ticks are one advance. -/
theorem iterate_seqTick_period (on : Sequencing v.instrument) (start : v.sequencerTickCounter = 0) :
    (seqTick cfg)^[v.instrument.sequencerSpeed.toNat] v = seqAdvance cfg v := by
  obtain ⟨n, hn⟩ := Nat.exists_eq_succ_of_ne_zero on.speed.ne'
  rw [hn, Function.iterate_succ_apply', iterate_seqTick_counts on start n (by omega)]
  exact seqTick_advances cfg (v := { v with sequencerTickCounter := n }) on hn.le

theorem iterate_seqAdvance_instrument (k : ℕ) :
    ((seqAdvance cfg)^[k] v).instrument = v.instrument :=
  Function.Iterate.rec (fun w : Voice => w.instrument = v.instrument) rfl
    (fun w h => (seqAdvance_instrument cfg w).trans h) k

theorem iterate_seqAdvance_counter (start : v.sequencerTickCounter = 0) (k : ℕ) :
    ((seqAdvance cfg)^[k] v).sequencerTickCounter = 0 :=
  Function.Iterate.rec (fun w : Voice => w.sequencerTickCounter = 0) start
    (fun w _ => seqAdvance_sequencerTickCounter cfg w) k

/-- The step counts the advances, modulo the length. -/
theorem iterate_seqAdvance_step (pos : 0 < v.instrument.sequencerLength.toNat)
    (hlen : v.instrument.sequencerLength.toNat ≤ 16) (start : v.sequencerStep = 0) (k : ℕ) :
    ((seqAdvance cfg)^[k] v).sequencerStep = cycleIndex v.instrument.sequencerLength.toNat k := by
  induction k with
  | zero => rw [cycleIndex, Nat.zero_mod]; exact start
  | succ k ih =>
    rw [Function.iterate_succ_apply', seqAdvance_sequencerStep, ih, iterate_seqAdvance_instrument,
      cycleIndex_succ pos hlen]

theorem iterate_seqTick_periods (on : Sequencing v.instrument) (start : v.sequencerTickCounter = 0)
    (k : ℕ) :
    (seqTick cfg)^[v.instrument.sequencerSpeed.toNat * k] v = (seqAdvance cfg)^[k] v := by
  induction k with
  | zero => rfl
  | succ k ih =>
    have kept := iterate_seqAdvance_instrument (cfg := cfg) (v := v) k
    rw [Nat.mul_succ, Nat.add_comm, Function.iterate_add_apply, ih, ← kept,
      iterate_seqTick_period (kept ▸ on) (iterate_seqAdvance_counter start k),
      Function.iterate_succ_apply']

/-- j ticks into the step after k advances only the counter has moved since the last advance. -/
theorem iterate_seqTick (on : Sequencing v.instrument) (start : v.sequencerTickCounter = 0) (k : ℕ)
    {j : ℕ} (hj : j < v.instrument.sequencerSpeed.toNat) :
    (seqTick cfg)^[v.instrument.sequencerSpeed.toNat * k + j] v =
      { (seqAdvance cfg)^[k] v with sequencerTickCounter := j } := by
  have kept := iterate_seqAdvance_instrument (cfg := cfg) (v := v) k
  rw [Nat.add_comm, Function.iterate_add_apply, iterate_seqTick_periods on start]
  exact iterate_seqTick_counts (kept ▸ on) (iterate_seqAdvance_counter start k) j (kept ▸ hj)

end

/-- Settles O56: sequencerSpeed ticks are one advance, so the cycle is that of the advances. -/
theorem sequencerCycles : Obligations.SequencerCycles := by
  intro v hlen
  refine ⟨seqTick_disabled Config.hw, fun speed length => ?_⟩
  have on : Sequencing v.instrument :=
    ⟨(byte_ne_zero_iff _).mp speed, (byte_ne_zero_iff _).mp length⟩
  refine ⟨seqTick_counts Config.hw on, fun due => ?_,
    fun counter step => ⟨fun j hj => ?_, fun k j hj => ?_⟩⟩
  · rw [seqTick_advances Config.hw on due]
    exact seqAdvance_eq hw_admissible on.length hlen
  · rw [iterate_seqTick_counts on counter j hj]
  · have stepAt := iterate_seqAdvance_step (cfg := Config.hw) on.length hlen step
    rw [iterate_seqTick on counter (k + 1) hj]
    refine ⟨?_, (congrArg Fin.val (stepAt (k + 1))).trans (cycleIndex_val on.length hlen _)⟩
    dsimp only
    rw [Function.iterate_succ_apply', seqAdvance_activeWave]
    simp only [iterate_seqAdvance_instrument, stepAt]
    rfl

/-! ## Pitch (R152, R153, R155, R159 to R161) -/

section
variable (cfg : Config) {v : Voice}

theorem arpOffset_eq (v : Voice) :
    arpOffset v =
      if v.instrument.arpeggioLength = 0 then 0 else v.instrument.arp[v.arpeggioIndex].toInt := by
  unfold arpOffset sext8
  by_cases h : v.instrument.arpeggioLength = 0
  · simp [h]
  · rw [if_neg h, if_pos ((byte_ne_zero_iff _).mp h)]

theorem vibCents_of_no_depth (h : v.instrument.vibratoDepth = 0) : vibCents cfg v = 0 := by
  simp [vibCents, h]

theorem recompute_of_synth (rate : ℕ) (hk : v.instrument.kind = .wavetableSynth) :
    recompute cfg rate v =
      { v with phaseIncrement := frequency cfg v / rate * cfg.waveLen v.activeWave.toNat } := by
  simp only [recompute, hk]

theorem recompute_of_pcm (rate : ℕ) (hk : v.instrument.kind = .pcmSample) :
    recompute cfg rate v = { v with phaseIncrement := frequency cfg v / cfg.nativeFreq } := by
  simp only [recompute, hk]

/-- Without vibrato and finetune the ratio is that of 0 cents, which is 1 (00_scope.md R8). -/
theorem frequency_of_no_cents {cfg : Config} (adm : cfg.Admissible)
    (hd : v.instrument.vibratoDepth = 0) (hf : v.instrument.finetune = 0) :
    frequency cfg v = cfg.note2freq (v.baseNote.toNat + arpOffset v) := by
  simp [frequency, vibCents_of_no_depth cfg hd, hf, sext8, adm.cents2ratio_zero]

end

/-- Settles O54. -/
theorem zeroDepthNoOffset : Obligations.ZeroDepthNoOffset := by
  intro v rate offset cents hoffset hcents
  rw [← arpOffset_eq] at hoffset
  have hcents : cents = vibCents Config.hw v := hcents
  subst hoffset hcents
  exact ⟨rfl, rfl, recompute_of_synth Config.hw rate, recompute_of_pcm Config.hw rate,
    fun hd => ⟨vibCents_of_no_depth Config.hw hd, frequency_of_no_cents hw_admissible hd⟩⟩

/-! ## PCM voices (R163) -/

theorem vibTick_of_rest {cfg : Config} {v : Voice} (speed : v.instrument.vibratoSpeed = 0)
    (phase : v.vibratoPhase = 0) (delay : v.vibratoDelayRemaining = 0) : vibTick cfg v = v := by
  have still : v.vibratoPhase + vibratoIncrement cfg v = v.vibratoPhase := by
    simp [vibratoIncrement, speed]
  rw [vibTick_turns cfg delay, still, subtractWhile_of_lt 1 (by rw [phase]; exact one_pos)]

/-- Settles O57: a PCM sample has no vibrato, arpeggio or sequencer to run (10_state.md R24). -/
theorem pcmModulationIdle : Obligations.PcmModulationIdle := by
  intro v rate legal kind phase delay
  obtain ⟨_, speed, _, _, _, _, _, _, _, _, _, vibSpeed, depth, arp, _, _⟩ := legal.pcmNeutral kind
  refine ⟨vibTick_of_rest vibSpeed phase delay, arpTick_of_zero arp,
    seqTick_disabled Config.hw (.inl speed), ?_⟩
  rw [recompute_of_pcm Config.hw rate kind]
  simp only [frequency, vibCents_of_no_depth Config.hw depth, arpOffset_eq, if_pos arp, zero_add,
    add_zero]
  rfl

end Sys2Proof.Proofs

/-! PROOFS of the family 43_oscillator: the advance of the phase by kind of voice, and one sample of
RENDER, without and with a tick. -/

namespace Sys2Proof.Proofs

open Sys2Proof.Machine Sys2Proof.Laws

/-! ## The advance of the phase, an equation for each kind (43_oscillator.md R173, R175 to R177) -/

section
variable {cfg : Config} {v : Voice}

/-- The phase before any wrap: the sum that R173, R176 and R177 start from. -/
abbrev phaseSum (v : Voice) : ℚ := v.oscillatorPhase + v.phaseIncrement

theorem advancePhase_of_synth (hk : v.instrument.kind = .wavetableSynth) :
    advancePhase cfg v =
      { v with
        oscillatorPhase :=
          subtractWhile (phaseSum v) (cfg.waveLen v.activeWave.toNat)
            (cfg.waveLen v.activeWave.toNat) } := by
  simp only [advancePhase, hk]

theorem advancePhase_of_loop (hk : v.instrument.kind = .pcmSample)
    (hl : 1 < v.instrument.loopLength.toNat) :
    advancePhase cfg v =
      { v with
        oscillatorPhase :=
          subtractWhile (phaseSum v) (loopEnd v.instrument) v.instrument.loopLength.toNat } := by
  simp only [advancePhase, hk, hl, if_true, loopWrap]

theorem advancePhase_of_no_loop (hk : v.instrument.kind = .pcmSample)
    (hl : v.instrument.loopLength.toNat ≤ 1) :
    advancePhase cfg v = endCheck { v with oscillatorPhase := phaseSum v } := by
  simp only [advancePhase, hk, hl.not_gt, if_false]

/-- The first index past the loop, less the loop, is its start (R176). -/
theorem loopEnd_sub_loopLength (x : Instrument) :
    (loopEnd x : ℚ) - x.loopLength.toNat = x.loopStart.toNat := by
  simp [loopEnd]

end

/-- Settles O58. -/
theorem wavetableAdvance : Obligations.WavetableAdvance := by
  intro v hk phase increment
  have length : (0 : ℚ) < Config.hw.waveLen v.activeWave.toNat := by
    exact_mod_cast hw_admissible.waveLen_pos _
  obtain ⟨k, wrapped, below, _⟩ := subtractWhile_spec (phaseSum v) _ length
  exact ⟨k, _, advancePhase_of_synth hk, wrapped,
    subtractWhile_nonneg length (add_nonneg phase increment) le_rfl, below⟩

/-- Settles O59. -/
theorem pcmLoopAdvance : Obligations.PcmLoopAdvance := by
  intro v hk hl
  have length : (0 : ℚ) < v.instrument.loopLength.toNat := by
    exact_mod_cast Nat.zero_lt_of_lt hl
  obtain ⟨k, wrapped, below, turns, none⟩ :=
    subtractWhile_spec (phaseSum v) (loopEnd v.instrument) length
  refine ⟨k, _, advancePhase_of_loop hk hl, wrapped, none, fun past => ?_⟩
  obtain ⟨once, fromStart⟩ := turns past
  exact ⟨once, loopEnd_sub_loopLength v.instrument ▸ fromStart, below⟩

/-- Settles O60: the two clauses are the branches of EndCheck. -/
theorem pcmEndStops : Obligations.PcmEndStops := by
  intro v hk hl
  rw [advancePhase_of_no_loop hk hl]
  exact ⟨fun before => if_neg before.not_ge, fun past => if_pos past⟩

/-! ## The amplitude (R171, R172) -/

section
variable {cfg : Config}

/-- A read of the wave ROM that does not fault gives the entry (20_memory.md R63). -/
theorem readWaveRom_eq_ok {w : ℕ} {i x : ℤ} (h : readWaveRom cfg w i = .ok x) :
    x = cfg.waveData w i.toNat := by
  unfold readWaveRom at h
  split at h
  · exact (Except.ok.inj h).symm
  · cases h

/-- A read of the sample RAM that does not fault gives a byte that holds a value, with its sign
(20_memory.md R62). -/
theorem readSampleRam_eq_ok {sram : Memory} {i x : ℤ} (h : readSampleRam cfg sram i = .ok x) :
    ∃ b, Memory.read? sram i.toNat = some b ∧ x = b.toInt := by
  unfold readSampleRam at h
  split at h
  · split at h
    · rename_i b hb
      exact ⟨b, hb, (Except.ok.inj h).symm⟩
    · cases h
  · cases h

theorem produceSample_isAmplitude {v : Voice} {a : ℚ} (h : produceSample cfg v = .ok a) :
    IsAmplitude cfg v a := by
  unfold produceSample at h
  cases hk : v.instrument.kind with
  | wavetableSynth =>
    simp only [hk] at h
    split at h
    · rename_i x read
      cases h
      exact ⟨fun _ => by rw [readWaveRom_eq_ok read], fun pcm => nomatch hk.symm.trans pcm⟩
    · cases h
  | pcmSample =>
    simp only [hk] at h
    split at h
    · rename_i x read
      cases h
      obtain ⟨b, stored, rfl⟩ := readSampleRam_eq_ok read
      exact ⟨fun synth => (nomatch hk.symm.trans synth), fun _ => ⟨b, stored, rfl⟩⟩
    · cases h

end

/-! ## One sample of RENDER (44_render.md R190, R192 to R196) -/

section
variable {cfg : Config} {v : Voice}

theorem schedule_of_no_tick {rate : ℕ} (h : v.tickAccumulator + 1 / (rate : ℚ) < 1 / 50) :
    schedule cfg rate v = { v with tickAccumulator := v.tickAccumulator + 1 / (rate : ℚ) } :=
  if_neg (not_le.mpr h)

theorem schedule_of_tick {rate : ℕ} (h : 1 / 50 ≤ v.tickAccumulator + 1 / (rate : ℚ)) :
    schedule cfg rate v =
      tick cfg rate { v with tickAccumulator := v.tickAccumulator + 1 / (rate : ℚ) - 1 / 50 } :=
  if_pos h

/-- The loop of one sample: the frame of that sample, or silence where there is none (R194). -/
theorem renderLoop_one {rate : ℕ} {w : Voice} {o : Option Frame}
    (ac : v.active = true) (h : renderSample cfg rate v = .ok (w, o)) :
    renderLoop cfg rate 1 v = .ok (w, [o.getD Frame.silence]) := by
  cases o <;> simp [renderLoop, ac, h]

end

section
variable {s : State} {v : Handle}

theorem setVoice_replyWith_kept (x : Voice) (r : Word) (frames : List Frame) :
    KeptBut v s ((s.setVoice v x).replyWith r frames) :=
  ⟨rfl, rfl, fun u ne => setVoice_voice_ne s u v x ne, rfl⟩

/-- RENDER of one sample writes the voice and the frame the sample gives (R190). -/
theorem render_one_of_sample {w : Voice} {o : Option Frame} (hv : validHandle Config.hw s v = true)
    (ac : (s.voice v).active = true)
    (h : renderSample Config.hw s.sampleRate.toNat (s.voice v) = .ok (w, o)) :
    exec (.render v 1) s =
      .next ((s.setVoice v w).replyWith statusOk [o.getD Frame.silence]) := by
  have loop : renderLoop Config.hw s.sampleRate.toNat (1 : Operand).toNat (s.voice v) = _ :=
    renderLoop_one ac h
  simp only [exec, execRender, renderWith, hv, if_true, loop]

/-- What one sample gives: steps 1 and 2 lead to the voice `u`, which ended in silence or sounds at
its amplitude and then advances. -/
structure OneSample (s : State) (v : Handle) (u : Voice) (t : State) : Prop where
  kept : KeptBut v s t
  silent : u.active = false → t.voice v = u ∧ t.replies = s.replies ++ [⟨0, [⟨0, 0⟩]⟩]
  sounds : u.active = true → t.voice v = advancePhase Config.hw u ∧
    ∃ a x, IsAmplitude Config.hw u a ∧
      x = a * (u.envelopeVolume / 64) * ((u.velocity.toNat : ℚ) / 127) ∧
      t.replies = s.replies ++ [⟨0, [⟨x, x⟩]⟩]

/-- From a good state RENDER of one sample of a sounding voice completes, with what the voice after
steps 1 and 2 gives. -/
theorem render_one (g : s.Good Config.hw) (hv : validHandle Config.hw s v = true)
    (ac : (s.voice v).active = true) :
    ∃ t, exec (.render v 1) s = .next t ∧
      OneSample s v (schedule Config.hw s.sampleRate.toNat (s.voice v)) t := by
  obtain ⟨hval, _, _⟩ := validHandle_spec hv
  obtain ⟨w, o, sample, _⟩ := renderSample_good hw_admissible (g.rate hval) (g.voices v)
  refine ⟨_, render_one_of_sample hv ac sample, setVoice_replyWith_kept _ _ _, fun off => ?_,
    fun on => ?_⟩
  · rcases renderSample_cases sample with ⟨_, rfl, rfl⟩ | ⟨_, on, _⟩
    · exact ⟨setVoice_voice_self s v _, rfl⟩
    · exact Bool.noConfusion (off.symm.trans on)
  · rcases renderSample_cases sample with ⟨off, _⟩ | ⟨a, _, produced, rfl, rfl⟩
    · exact Bool.noConfusion (off.symm.trans on)
    · exact ⟨setVoice_voice_self s v _, a, _, produceSample_isAmplitude produced, rfl, rfl⟩

end

/-- Settles O39. -/
theorem renderOneSampleWithoutTick : Obligations.RenderOneSampleWithoutTick := by
  intro s v g hv ac noTick
  obtain ⟨t, rendered, one⟩ := render_one g hv ac
  rw [schedule_of_no_tick noTick] at one
  obtain ⟨voice, a, x, amplitude, scaled, reply⟩ := one.sounds ac
  exact ⟨t, a, x, rendered, one.kept, amplitude, scaled, reply, voice⟩

/-- Settles O40: `w` is the voice after the tick. -/
theorem renderOneSampleWithTick : Obligations.RenderOneSampleWithTick := by
  intro s v e w g hv ac due he hw
  obtain ⟨t, rendered, one⟩ := render_one g hv ac
  have ticked : schedule Config.hw s.sampleRate.toNat (s.voice v) = w := by
    rw [schedule_of_tick due, hw, he]
    rfl
  rw [ticked] at one
  exact ⟨t, rendered, one.kept, one.silent, one.sounds⟩

end Sys2Proof.Proofs

/-! PROOFS of the family 44_render: the loop of RENDER as a relation between the voice before, the
voice after and the frames, and what RENDER does to the state. -/

namespace Sys2Proof.Proofs

open Sys2Proof.Machine Sys2Proof.Laws

/-! ## The runs of the loop (44_render.md R190, R194) -/

section
variable {cfg : Config} {rate : ℕ}

/-- `Rendered cfg rate n v u frames`: n samples of the voice v lead to the voice u and give the frames.
There is a case for each way a run goes on: no sample is left, the voice is silent, it ends in a tick,
or it gives a frame. -/
inductive Rendered (cfg : Config) (rate : ℕ) : ℕ → Voice → Voice → List Frame → Prop
  | done (v : Voice) : Rendered cfg rate 0 v v []
  | silent (n : ℕ) {v : Voice} (off : v.active = false) :
      Rendered cfg rate n v v (List.replicate n Frame.silence)
  | ended (n : ℕ) {v u : Voice} (on : v.active = true)
      (sample : renderSample cfg rate v = .ok (u, none)) :
      Rendered cfg rate (n + 1) v u (List.replicate (n + 1) Frame.silence)
  | sounds {n : ℕ} {v w u : Voice} {f : Frame} {frames : List Frame} (on : v.active = true)
      (sample : renderSample cfg rate v = .ok (w, some f)) (rest : Rendered cfg rate n w u frames) :
      Rendered cfg rate (n + 1) v u (f :: frames)

theorem rendered_of_renderLoop {n : ℕ} {v u : Voice} {frames : List Frame}
    (h : renderLoop cfg rate n v = .ok (u, frames)) : Rendered cfg rate n v u frames := by
  induction n generalizing v frames with
  | zero => cases h; exact .done _
  | succ n ih =>
    cases ac : v.active with
    | false =>
      rw [renderLoop_inactive ac] at h
      cases h
      exact .silent (n + 1) ac
    | true =>
      rcases renderLoop_succ_cases ac h with ⟨sample, rfl⟩ | ⟨w, f, gs, sample, rest, rfl⟩
      · exact .ended n ac sample
      · exact .sounds ac sample (ih rest)

/-- The relation is the loop: `Rendered` holds of exactly the runs that complete. -/
theorem renderLoop_eq_ok_iff {n : ℕ} {v u : Voice} {frames : List Frame} :
    renderLoop cfg rate n v = .ok (u, frames) ↔ Rendered cfg rate n v u frames := by
  refine ⟨rendered_of_renderLoop, fun h => ?_⟩
  induction h with
  | done v => rfl
  | silent n off => exact renderLoop_inactive off n
  | ended n on sample => simp only [renderLoop, on, if_true, sample]
  | sounds on sample _ ih => simp only [renderLoop, on, if_true, sample, ih]

theorem Rendered.frame {n : ℕ} {v u : Voice} {frames : List Frame}
    (h : Rendered cfg rate n v u frames) : RenderFrame v u :=
  renderLoop_frame (renderLoop_eq_ok_iff.mpr h)

/-- A voice that does not sound has one run: it stays as it is, in silence. -/
theorem Rendered.of_inactive {n : ℕ} {v u : Voice} {frames : List Frame}
    (h : Rendered cfg rate n v u frames) (off : v.active = false) :
    u = v ∧ frames = List.replicate n Frame.silence := by
  cases h with
  | done => exact ⟨rfl, rfl⟩
  | silent => exact ⟨rfl, rfl⟩
  | ended _ on => exact Bool.noConfusion (off.symm.trans on)
  | sounds on => exact Bool.noConfusion (off.symm.trans on)

theorem Rendered.active {n : ℕ} {v u : Voice} {frames : List Frame}
    (h : Rendered cfg rate n v u frames) (on : u.active = true) : v.active = true := by
  cases h with
  | done => exact on
  | silent => exact on
  | ended _ before => exact before
  | sounds before => exact before

/-- A sample without a frame is the one whose tick ended the voice (R193). -/
theorem renderSample_none_inactive {v w : Voice} (h : renderSample cfg rate v = .ok (w, none)) :
    w.active = false := by
  rcases renderSample_cases h with ⟨off, _, rfl⟩ | ⟨_, _, _, none, _⟩
  · exact off
  · cases none

/-- Two runs in a row are one run (R198), also where the voice ended on the way: the rest is silence. -/
theorem Rendered.append {m n : ℕ} {v u w : Voice} {fs gs : List Frame}
    (first : Rendered cfg rate m v u fs) (second : Rendered cfg rate n u w gs) :
    Rendered cfg rate (m + n) v w (fs ++ gs) := by
  induction first with
  | done v => rwa [Nat.zero_add]
  | silent m off =>
    obtain ⟨rfl, rfl⟩ := second.of_inactive off
    rw [List.replicate_append_replicate]
    exact .silent (m + n) off
  | ended m on sample =>
    obtain ⟨rfl, rfl⟩ := second.of_inactive (renderSample_none_inactive sample)
    rw [List.replicate_append_replicate, Nat.succ_add]
    exact .ended (m + n) on sample
  | sounds on sample _ ih =>
    rw [Nat.succ_add]
    exact .sounds on sample (ih second)

/-! ## The frames of a run (R194 to R196, 20_memory.md R64) -/

/-- A property of silence and of every frame a sample gives along the run is one of all its frames;
`Inv` is what the samples keep of the voice. -/
theorem Rendered.forall_frames {Inv : Voice → Prop} {P : Frame → Prop} {n : ℕ} {v u : Voice}
    {frames : List Frame} (h : Rendered cfg rate n v u frames) (inv : Inv v)
    (silence : P Frame.silence)
    (sample : ∀ {v w f}, Inv v → renderSample cfg rate v = .ok (w, some f) → Inv w ∧ P f) :
    ∀ f ∈ frames, P f := by
  induction h with
  | done => exact fun _ mem => nomatch mem
  | silent => exact fun _ mem => List.eq_of_mem_replicate mem ▸ silence
  | ended => exact fun _ mem => List.eq_of_mem_replicate mem ▸ silence
  | sounds _ gives _ ih =>
    obtain ⟨inv', frame⟩ := sample inv gives
    exact List.forall_mem_cons.mpr ⟨frame, ih inv'⟩

/-- The frame of a sample is its amplitude, scaled by the voice after steps 1 and 2 (R195). -/
theorem renderSample_some {v w : Voice} {f : Frame} (h : renderSample cfg rate v = .ok (w, some f)) :
    ∃ a, produceSample cfg (schedule cfg rate v) = .ok a ∧
      f = scaledFrame (schedule cfg rate v) a := by
  rcases renderSample_cases h with ⟨_, none, _⟩ | ⟨a, _, produced, some, _⟩
  · cases none
  · exact ⟨a, produced, Option.some.inj some⟩

theorem renderSample_keeps_good (adm : cfg.Admissible) (legal : tickHz ≤ rate) {v w : Voice}
    {o : Option Frame} (g : v.Good cfg) (h : renderSample cfg rate v = .ok (w, o)) : w.Good cfg := by
  obtain ⟨w', o', sample, good⟩ := renderSample_good adm legal g
  cases sample.symm.trans h
  exact good

/-- The range of one channel (20_memory.md R64). -/
def InRange (x : ℚ) : Prop := -1 ≤ x ∧ x ≤ 1

/-- Both factors of R195 are in [0, 1], so that the product stays within the amplitude's range. -/
theorem scaled_inRange {v : Voice} {a : ℚ} (g : v.Good cfg) (amplitude : InRange a) :
    InRange (a * (v.envelopeVolume / maxVolume) * ((v.velocity.toNat : ℚ) / velMax)) := by
  have volume : |v.envelopeVolume / maxVolume| ≤ 1 := by
    rw [abs_of_nonneg (div_nonneg g.envelope.volume_nonneg (by positivity))]
    exact div_le_one_of_le₀ g.envelope.volume_le (by positivity)
  have velocity : |(v.velocity.toNat : ℚ) / velMax| ≤ 1 := by
    rw [abs_of_nonneg (by positivity)]
    exact div_le_one_of_le₀ (by exact_mod_cast Nat.le_of_lt_succ v.velocity.isLt) (by positivity)
  refine abs_le.mp ?_
  rw [abs_mul, abs_mul]
  exact mul_le_one₀ (mul_le_one₀ (abs_le.mpr amplitude) (abs_nonneg _) volume) (abs_nonneg _)
    velocity

theorem Rendered.channels_equal {n : ℕ} {v u : Voice} {frames : List Frame}
    (h : Rendered cfg rate n v u frames) : ∀ f ∈ frames, f.left = f.right := by
  refine h.forall_frames (Inv := fun _ => True) trivial rfl fun _ sample => ⟨trivial, ?_⟩
  obtain ⟨a, _, rfl⟩ := renderSample_some sample
  rfl

theorem Rendered.left_inRange (adm : cfg.Admissible) (legal : tickHz ≤ rate) {n : ℕ} {v u : Voice}
    {frames : List Frame} (h : Rendered cfg rate n v u frames) (g : v.Good cfg) :
    ∀ f ∈ frames, InRange f.left := by
  have silence : InRange Frame.silence.left := ⟨by decide, by decide⟩
  refine h.forall_frames g silence fun good sample =>
    ⟨renderSample_keeps_good adm legal good sample, ?_⟩
  obtain ⟨a, produced, rfl⟩ := renderSample_some sample
  exact scaled_inRange (schedule_good adm legal good) (produceSample_bounds adm produced)

/-! ## The tick clock (R192, R197) -/

theorem tick_tickAccumulator (v : Voice) : (tick cfg rate v).tickAccumulator = v.tickAccumulator := by
  have envelope := (envTick_frame v).tickAccumulator
  unfold tick
  dsimp only
  split
  · exact envelope
  · rw [(recompute_frame cfg rate _).tickAccumulator, (seqTick_frame cfg _).tickAccumulator,
      (arpTick_frame _).tickAccumulator, (vibTick_frame cfg _).tickAccumulator, envelope]

/-- Steps 1 and 2 of a sample add a sample period and take away at most one tick period. -/
theorem schedule_tickAccumulator (v : Voice) :
    ∃ k : ℕ, (schedule cfg rate v).tickAccumulator + k / 50 = v.tickAccumulator + 1 / rate := by
  rcases lt_or_ge (v.tickAccumulator + 1 / (rate : ℚ)) (1 / 50) with noTick | due
  · exact ⟨0, by rw [schedule_of_no_tick noTick]; simp⟩
  · refine ⟨1, ?_⟩
    rw [schedule_of_tick due, tick_tickAccumulator, Nat.cast_one]
    exact sub_add_cancel _ _

theorem renderSample_tickAccumulator {v w : Voice} {o : Option Frame}
    (h : renderSample cfg rate v = .ok (w, o)) :
    ∃ k : ℕ, w.tickAccumulator + k / 50 = v.tickAccumulator + 1 / rate := by
  rcases renderSample_cases h with ⟨_, _, rfl⟩ | ⟨_, _, _, _, rfl⟩
  · exact schedule_tickAccumulator v
  · rw [(advancePhase_frame cfg _).tickAccumulator]
    exact schedule_tickAccumulator v

/-- A voice that is still sounding has sounded in every sample, and each moved its clock. -/
theorem Rendered.tickAccumulator {n : ℕ} {v u : Voice} {frames : List Frame}
    (h : Rendered cfg rate n v u frames) (on : u.active = true) :
    ∃ k : ℕ, u.tickAccumulator + k / 50 = v.tickAccumulator + n / rate := by
  induction h with
  | done v => exact ⟨0, by simp⟩
  | silent _ off => exact Bool.noConfusion (off.symm.trans on)
  | ended _ _ sample => exact Bool.noConfusion ((renderSample_none_inactive sample).symm.trans on)
  | sounds _ sample _ ih =>
    obtain ⟨j, first⟩ := renderSample_tickAccumulator sample
    obtain ⟨k, others⟩ := ih on
    refine ⟨j + k, ?_⟩
    push_cast
    rw [add_div, add_div]
    linarith

end

/-! ## RENDER as a command (R190, R191, R199) -/

section
variable {s t : State} {v : Handle} {n : Operand}

@[simp] theorem setVoice_voice_id (s : State) (v : Handle) : s.setVoice v (s.voice v) = s := by
  simp [State.setVoice, State.voice]

theorem exec_render_of_invalid (hv : validHandle Config.hw s v = false) :
    exec (.render v n) s = .next (s.respond statusOk) := by
  simp [exec, execRender, renderWith, hv]

theorem exec_render_of_rendered {w : Voice} {frames : List Frame}
    (hv : validHandle Config.hw s v = true)
    (h : Rendered Config.hw s.sampleRate.toNat n.toNat (s.voice v) w frames) :
    exec (.render v n) s = .next ((s.setVoice v w).replyWith statusOk frames) := by
  simp only [exec, execRender, renderWith, hv, if_true, renderLoop_eq_ok_iff.mpr h]

/-- All that a RENDER that completes can do: answer an invalid handle, or write the voice its run leads
to and reply with the frames of that run. -/
theorem exec_render_cases (h : exec (.render v n) s = .next t) :
    (validHandle Config.hw s v = false ∧ t = s.respond statusOk) ∨
    (validHandle Config.hw s v = true ∧ ∃ w frames,
      Rendered Config.hw s.sampleRate.toNat n.toNat (s.voice v) w frames ∧
      t = (s.setVoice v w).replyWith statusOk frames) := by
  cases hv : validHandle Config.hw s v with
  | false =>
    rw [exec_render_of_invalid hv] at h
    exact .inl ⟨rfl, (Host.Outcome.next.inj h).symm⟩
  | true =>
    simp only [exec, execRender, renderWith, hv, if_true] at h
    split at h
    · cases h
    · rename_i w frames loop
      exact .inr ⟨rfl, w, frames, renderLoop_eq_ok_iff.mp loop, (Host.Outcome.next.inj h).symm⟩

/-- The frames of a RENDER with a reply are none, for an invalid handle, or those of its run. -/
theorem exec_render_frames {r : Word} {frames : List Frame} (h : exec (.render v n) s = .next t)
    (reply : t.replies = s.replies ++ [⟨r, frames⟩]) :
    frames = [] ∨ (validHandle Config.hw s v = true ∧
      ∃ w, Rendered Config.hw s.sampleRate.toNat n.toNat (s.voice v) w frames) := by
  rcases exec_render_cases h with ⟨_, rfl⟩ | ⟨hv, w, fs, run, rfl⟩
  · cases List.append_cancel_left reply
    exact .inl rfl
  · cases List.append_cancel_left reply
    exact .inr ⟨hv, w, run⟩

/-- RENDER does not touch what ValidHandle tests (60_exceptions.md R243). -/
theorem validHandle_after_render {cfg : Config} {w : Voice} (r : Word) (frames : List Frame)
    (allocated : w.allocated = (s.voice v).allocated) :
    validHandle cfg ((s.setVoice v w).replyWith r frames) v = validHandle cfg s v := by
  simp [validHandle, allocated]

end

/-- Settles O36: the loop completes from a good voice, and its frame is that of every sample. -/
theorem renderCompletes : Obligations.RenderCompletes := by
  intro s v n g hv
  obtain ⟨hval, _, _⟩ := validHandle_spec hv
  obtain ⟨w, frames, loop, len, _⟩ :=
    renderLoop_good hw_admissible (g.rate hval) n.toNat (g.voices v)
  have run := renderLoop_eq_ok_iff.mp loop
  have kept := run.frame
  refine ⟨_, frames, exec_render_of_rendered hv run,
    setVoice_replyWith_kept w _ _, rfl, len, ?_⟩
  rw [replyWith_voice, setVoice_voice_self]
  exact ⟨⟨kept.allocated, kept.loaded, kept.instrument, fun a => by rw [kept.sram]⟩, kept.baseNote,
    kept.velocity⟩

/-- Settles O37: the loop over no samples is done at once. -/
theorem renderOfNoSamples : Obligations.RenderOfNoSamples := by
  intro s v
  cases hv : validHandle Config.hw s v with
  | false => exact exec_render_of_invalid hv
  | true =>
    rw [exec_render_of_rendered hv (n := 0) (.done _), setVoice_voice_id]
    rfl

/-- Settles O38: the run of an inactive voice is silent and writes the voice back as it was. -/
theorem renderInactiveIsSilent : Obligations.RenderInactiveIsSilent := by
  intro s v n hv off
  rw [exec_render_of_rendered hv (.silent _ off), setVoice_voice_id]
  rfl

/-- Settles O41: silence and every scaled frame carry one value twice. -/
theorem channelsEqual : Obligations.ChannelsEqual := by
  intro s t v n r frames h reply
  rcases exec_render_frames h reply with rfl | ⟨_, w, run⟩
  · exact fun _ mem => nomatch mem
  · exact run.channels_equal

/-- Settles O42: the left channel is in range, and the right one equals it. -/
theorem framesInRange : Obligations.FramesInRange := by
  intro s t v n r frames g h reply
  rcases exec_render_frames h reply with rfl | ⟨hv, w, run⟩
  · exact fun _ mem => nomatch mem
  · obtain ⟨hval, _, _⟩ := validHandle_spec hv
    intro f mem
    obtain ⟨low, high⟩ := run.left_inRange hw_admissible (g.rate hval) (g.voices v) f mem
    have equal := run.channels_equal f mem
    exact ⟨low, high, equal ▸ low, equal ▸ high⟩

/-- Settles O43: an inactive voice has only the silent run, which leaves it as it is. -/
theorem renderNeverWakes : Obligations.RenderNeverWakes := by
  intro s t v n h on
  rcases exec_render_cases h with ⟨_, rfl⟩ | ⟨_, w, frames, run, rfl⟩
  · exact on
  · rw [replyWith_voice, setVoice_voice_self] at on
    exact run.active on

/-- Settles O44: the second RENDER starts from the voice the first one left, at the same rate. -/
theorem renderSplits : Obligations.RenderSplits := by
  intro s t u v m n fits first second
  have sum : (m + n).toNat = m.toNat + n.toNat := BitVec.toNat_add_of_lt fits
  rcases exec_render_cases first with ⟨hv, rfl⟩ | ⟨hv, x, f, run, rfl⟩
  · have hv' : validHandle Config.hw (s.respond statusOk) v = false := hv
    cases (exec_render_of_invalid hv').symm.trans second
    exact ⟨_, [], [], exec_render_of_invalid hv, rfl, rfl, rfl, rfl, rfl, fun _ => rfl⟩
  · have valid := (validHandle_after_render statusOk f run.frame.allocated).trans hv
    rcases exec_render_cases second with ⟨hv', _⟩ | ⟨_, y, g, run', rfl⟩
    · exact Bool.noConfusion (hv'.symm.trans valid)
    · rw [replyWith_voice, setVoice_voice_self] at run'
      have whole := run.append run'
      rw [← sum] at whole
      refine ⟨_, f, g, exec_render_of_rendered hv whole, rfl, rfl, rfl, rfl, rfl, fun z => ?_⟩
      simp only [replyWith_voice, setVoice_voice]
      split <;> rfl

/-- Settles O45: the clock of the run, within the bounds the good state after it has. -/
theorem tickClockAdvances : Obligations.TickClockAdvances := by
  intro s t v n g hv h on
  have good : t.Good Config.hw := by
    have outcome := exec_good g (.render v n)
    rwa [h] at outcome
  have clock := (good.voices v).oscillator
  rcases exec_render_cases h with ⟨hv', _⟩ | ⟨_, w, frames, run, rfl⟩
  · exact Bool.noConfusion (hv'.symm.trans hv)
  · rw [replyWith_voice, setVoice_voice_self] at on clock ⊢
    obtain ⟨k, advanced⟩ := run.tickAccumulator on
    exact ⟨k, advanced, clock.clock_nonneg, clock.clock_lt⟩

end Sys2Proof.Proofs

/-! PROOFS of the family 45_host_commands: the slots the Context and voice commands free, reset and
allocate, the note that starts and the note that is released, and the parameters that are written and
read. -/

namespace Sys2Proof.Proofs

open Sys2Proof.Machine Sys2Proof.Laws

/-! ## A slot after VoiceReset (10_state.md R44) -/

/-- A slot at its reset values with no specified sample byte, allocated or free as given. -/
structure Cleared (allocated : Bool) (w : Voice) : Prop where
  allocation : w.allocated = allocated
  reset : w.SlotReset
  memory : ∀ a, Memory.read? w.sram a = none

theorem voiceReset_cleared (draw : Nat) (v : Voice) (allocated : Bool) :
    Cleared allocated { voiceReset draw v with allocated := allocated } where
  allocation := rfl
  reset := ⟨⟨rfl, rfl, rfl, rfl, rfl, rfl, rfl, rfl, rfl, rfl, rfl, rfl, rfl, rfl⟩, rfl, rfl⟩
  memory _ := rfl

theorem freeAllSlots_cleared (s : State) (v : Handle) : Cleared false (s.freeAllSlots.voice v) := by
  rw [freeAllSlots_voice]
  exact voiceReset_cleared _ _ false

theorem resetSlot_cleared (s : State) (v : Handle) (allocated : Bool) :
    Cleared allocated ((s.resetSlot v allocated).voice v) := by
  rw [resetSlot_voice_self]
  exact voiceReset_cleared _ _ allocated

theorem resetSlot_respond_kept (s : State) (v : Handle) (allocated : Bool) (r : Word) :
    KeptBut v s ((s.resetSlot v allocated).respond r) :=
  ⟨rfl, rfl, fun u ne => resetSlot_voice_ne s u v allocated ne, rfl⟩

/-! ## INIT and DISPOSE (45_host_commands.md R211, R212) -/

/-- What INIT and DISPOSE leave: every slot freed, the Context registers written, the response 0. -/
def emptied (s : State) (valid : Bool) (rate : Operand) : State :=
  State.respond { s.freeAllSlots with sampleRate := rate, valid := valid } statusOk

theorem emptied_facts (s : State) (valid : Bool) (rate : Operand) :
    (emptied s valid rate).valid = valid ∧ (emptied s valid rate).sampleRate = rate ∧
    (emptied s valid rate).commands = s.commands ∧
    (emptied s valid rate).replies = s.replies ++ [⟨0, []⟩] ∧
    ∀ v, ((emptied s valid rate).voice v).allocated = false ∧
      ((emptied s valid rate).voice v).SlotReset ∧
      ∀ a, Memory.read? ((emptied s valid rate).voice v).sram a = none := by
  refine ⟨rfl, rfl, by simp [emptied], by simp [emptied, statusOk, statusWord], fun v => ?_⟩
  obtain ⟨free, reset, memory⟩ := freeAllSlots_cleared s v
  exact ⟨free, reset, memory⟩

section
variable {s : State} {rate : Operand}

theorem exec_init_of_low_rate (low : rate.toNat < 50) :
    exec (.init rate) s = .next (s.answered (-7)) := if_pos low

theorem exec_init_of_legal_rate (legal : 50 ≤ rate.toNat) :
    exec (.init rate) s = .next (emptied s true rate) := if_neg (not_lt.mpr legal)

theorem exec_dispose_of_context (context : s.valid = true) :
    exec .dispose s = .next (emptied s false 0) := if_pos context

theorem exec_dispose_of_no_context (noContext : s.valid = false) :
    exec .dispose s = .next (s.answered 0) := if_neg (by simp [noContext])

end

/-- Settles O18: the test of the rate picks the branch, and the freed slots are those of `emptied`. -/
theorem initCreatesContext : Obligations.InitCreatesContext :=
  ⟨fun _ _ low => exec_init_of_low_rate low,
    fun s rate legal => ⟨_, exec_init_of_legal_rate legal, emptied_facts s true rate⟩⟩

/-- Settles O19: the same freed slots as after INIT, with no Context and rate 0. -/
theorem disposeTearsDown : Obligations.DisposeTearsDown :=
  ⟨fun s context => ⟨_, exec_dispose_of_context context, emptied_facts s false 0⟩,
    fun _ noContext => exec_dispose_of_no_context noContext⟩

/-! ## CREATE_VOICE and DESTROY_VOICE (R213, R214) -/

section
variable {cfg : Config} {s : State} {v : Handle}

/-- There is one least free slot: the slot `freeHandle?` finds is below no other free one. -/
theorem freeHandle?_eq_some (inPool : v.toNat < cfg.nvoices) (free : (s.voice v).allocated = false)
    (least : ∀ u : Handle, u.toNat < v.toNat → (s.voice u).allocated = true) :
    freeHandle? cfg s = some v := by
  cases found : freeHandle? cfg s with
  | none => simp [freeHandle?_none found v inPool] at free
  | some u =>
    obtain ⟨_, uFree, uLeast⟩ := freeHandle?_some found
    have notBelow : ¬ u.toNat < v.toNat := fun h => by simp [least u h] at uFree
    have notAbove : ¬ v.toNat < u.toNat := fun h => by simp [uLeast v h] at free
    exact congrArg some (BitVec.eq_of_toNat_eq (by omega))

theorem freeHandle?_eq_none
    (full : ∀ v : Handle, v.toNat < cfg.nvoices → (s.voice v).allocated = true) :
    freeHandle? cfg s = none := by
  cases found : freeHandle? cfg s with
  | none => rfl
  | some u =>
    obtain ⟨inPool, free, _⟩ := freeHandle?_some found
    simp [full u inPool] at free

theorem exec_createVoice_of_free (context : s.valid = true)
    (found : freeHandle? Config.hw s = some v) :
    exec .createVoice s =
      .next ((s.resetSlot v true).respond (BitVec.ofNat 32 v.toNat)) := by
  simp only [exec, execCreateVoice, createVoiceWith, context, if_true, found, BitVec.ofNat_toNat]

theorem exec_createVoice_of_full (found : freeHandle? Config.hw s = none) :
    exec .createVoice s = .next (s.answered (-1)) := by
  simp only [exec, execCreateVoice, createVoiceWith, found]
  exact ite_self _

theorem exec_createVoice_of_no_context (noContext : s.valid = false) :
    exec .createVoice s = .next (s.answered (-1)) := if_neg (by simp [noContext])

theorem exec_destroyVoice_of_valid (hv : validHandle Config.hw s v = true) :
    exec (.destroyVoice v) s = .next ((s.resetSlot v false).respond statusOk) := if_pos hv

end

/-- Settles O20: the slot found is the least free one, and resetting it is the only write. -/
theorem createVoiceTakesLeastFree : Obligations.CreateVoiceTakesLeastFree := by
  intro s v context inPool free least
  obtain ⟨allocation, reset, memory⟩ := resetSlot_cleared s v true
  exact ⟨_, exec_createVoice_of_free context (freeHandle?_eq_some inPool free least),
    resetSlot_respond_kept s v true _, allocation, reset, memory, rfl⟩

/-- Settles O21: without a Context nothing is searched, and in a full pool the search finds no slot. -/
theorem createVoiceExhausted : Obligations.CreateVoiceExhausted := by
  rintro s (noContext | full)
  · exact exec_createVoice_of_no_context noContext
  · exact exec_createVoice_of_full (freeHandle?_eq_none full)

/-- Settles O22. -/
theorem destroyVoiceFreesSlot : Obligations.DestroyVoiceFreesSlot := by
  intro s v hv
  obtain ⟨allocation, reset, memory⟩ := resetSlot_cleared s v false
  exact ⟨_, exec_destroyVoice_of_valid hv, resetSlot_respond_kept s v false _, allocation, reset,
    memory, rfl⟩

/-! ## NOTE_ON on a voice that can sound (R216) -/

section
variable {v : Voice}

theorem enterAttack_of_ne_zero (h : v.instrument.attackLength ≠ 0) :
    enterAttack v = { v with envelopeState := .attack, envelopeTicks := 0 } := if_neg h

/-- An attack of length 0 is passed through at the attack level (41_envelope.md R131). -/
theorem enterAttack_of_zero (h : v.instrument.attackLength = 0) :
    enterAttack v =
      enterDecay { v with
        envelopeState := .attack, envelopeTicks := 0
        envelopeVolume := level v.instrument.attackLevel } := if_pos h

theorem enterDecay_active (v : Voice) : (enterDecay v).active = v.active := by
  unfold enterDecay
  dsimp only
  split <;> rfl

/-- A voice that has something to play: a wave, or a sample that is not empty (R216, R122). -/
def CanSound (x : Instrument) : Prop := x.kind = .wavetableSynth ∨ x.sampleLength ≠ 0

theorem endIfEmpty_of_canSound (h : CanSound v.instrument) : endIfEmpty v = v := by
  refine if_neg ?_
  rintro ⟨pcm, empty⟩
  rcases h with synth | filled
  · simp [pcm] at synth
  · exact filled empty

/-- The envelope of the new note is the one EnvEnter(Attack) leaves. -/
theorem startNote_of_canSound (cfg : Config) (rate : Nat) (note velocity : SevenBit)
    (h : CanSound v.instrument) :
    startNote cfg rate note velocity v =
      recompute cfg rate (enterAttack (noteStart note velocity v)) := by
  have instrument : (enterAttack (noteStart note velocity v)).instrument = v.instrument :=
    (enterAttack_frame _).instrument
  rw [startNote, endIfEmpty_of_canSound (by rwa [instrument])]

theorem startNote_attack (cfg : Config) (rate : Nat) (note velocity : SevenBit)
    (h : CanSound v.instrument) (attack : v.instrument.attackLength ≠ 0) :
    (startNote cfg rate note velocity v).active = true ∧
    (startNote cfg rate note velocity v).envelopeState = .attack ∧
    (startNote cfg rate note velocity v).envelopeVolume = 0 ∧
    (startNote cfg rate note velocity v).envelopeTicks = 0 := by
  rw [startNote_of_canSound cfg rate note velocity h,
    enterAttack_of_ne_zero (v := noteStart note velocity v) attack]
  exact ⟨rfl, rfl, rfl, rfl⟩

theorem startNote_passes_attack (cfg : Config) (rate : Nat) (note velocity : SevenBit)
    (h : CanSound v.instrument) (attack : v.instrument.attackLength = 0) :
    (startNote cfg rate note velocity v).active = true ∧
    (startNote cfg rate note velocity v).envelopeTicks = 0 ∧
    (startNote cfg rate note velocity v).envelopeState =
      (if v.instrument.decayLength = 0 then .sustain else .decay) ∧
    (startNote cfg rate note velocity v).envelopeVolume =
      if v.instrument.decayLength = 0 then level v.instrument.sustainLevel
      else level v.instrument.attackLevel := by
  rw [startNote_of_canSound cfg rate note velocity h,
    enterAttack_of_zero (v := noteStart note velocity v) attack]
  exact ⟨enterDecay_active _, enterDecay_envelopeTicks _, enterDecay_envelopeState _,
    enterDecay_envelopeVolume _⟩

end

/-- Settles O29: the counters and the pitch are those of every note, the envelope stops in Attack. -/
theorem noteOnStartsAttack : Obligations.NoteOnStartsAttack := by
  intro s v note velocity hv hld attack sounds
  have st := startNote_started s.sampleRate.toNat note velocity (s.voice v) hw_admissible
  obtain ⟨active, state, volume, ticks⟩ :=
    startNote_attack Config.hw s.sampleRate.toNat note velocity sounds attack
  exact ⟨_, _, noteOn_of_loaded hv hld note velocity, setVoice_voice_self s v _,
    setVoice_respond_kept s v _ _, rfl, st.storage, st.tickAccumulator, st.baseNote, st.velocity,
    st.oscillatorPhase, st.sequencerStep, st.sequencerTickCounter, st.activeWave, st.arpeggioIndex,
    st.vibratoPhase, st.vibratoDelayRemaining, active, state, volume, ticks, st.phaseIncrement⟩

/-- Settles O30: as for O29, with the envelope that EnvEnter(Decay) leaves. -/
theorem noteOnPassesZeroAttack : Obligations.NoteOnPassesZeroAttack := by
  intro s v note velocity hv hld attack sounds
  have st := startNote_started s.sampleRate.toNat note velocity (s.voice v) hw_admissible
  obtain ⟨active, ticks, state, volume⟩ :=
    startNote_passes_attack Config.hw s.sampleRate.toNat note velocity sounds attack
  exact ⟨_, _, noteOn_of_loaded hv hld note velocity, setVoice_voice_self s v _,
    setVoice_respond_kept s v _ _, rfl, st.storage, st.tickAccumulator, st.baseNote, st.velocity,
    st.oscillatorPhase, st.sequencerStep, st.sequencerTickCounter, st.activeWave, st.arpeggioIndex,
    st.vibratoPhase, st.vibratoDelayRemaining, active, ticks,
    fun decays => ⟨state.trans (if_neg decays), volume.trans (if_neg decays)⟩,
    fun passes => ⟨state.trans (if_pos passes), volume.trans (if_pos passes)⟩, st.phaseIncrement⟩

/-! ## NOTE_OFF (R217) -/

section
variable {s : State} {v : Handle}

theorem releasable_iff (e : EnvelopeState) : e.releasable = true ↔ e ≠ .off ∧ e ≠ .release := by
  cases e <;> decide

theorem exec_noteOff_of_not_releasable (h : (s.voice v).envelopeState.releasable = false) :
    exec (.noteOff v) s = .next (s.answered 0) := if_neg (by simp [h])

theorem exec_noteOff_of_releasable (hv : validHandle Config.hw s v = true)
    (h : (s.voice v).envelopeState.releasable = true) :
    exec (.noteOff v) s =
      .next ((s.setVoice v (enterRelease (s.voice v))).respond statusOk) :=
  if_pos (by simp [hv, h])

end

/-- Settles O32: the envelope states split by `releasable`, Release by its length. -/
theorem noteOffReleases : Obligations.NoteOffReleases := by
  intro s v hv
  refine ⟨fun ended => ?_, fun notOff notRelease => ?_⟩
  · refine exec_noteOff_of_not_releasable ?_
    rcases ended with off | release
    · rw [off]; rfl
    · rw [release]; rfl
  · refine ⟨_, exec_noteOff_of_releasable hv ((releasable_iff _).mpr ⟨notOff, notRelease⟩),
      setVoice_respond_kept s v _ _, rfl, ?_⟩
    rw [respond_voice, setVoice_voice_self]
    split
    · rename_i zero
      exact enterRelease_of_zero zero
    · rename_i positive
      exact enterRelease_of_ne_zero positive

/-! ## SET_PARAM (R221) -/

section
variable {s : State} {v : Handle} {x : Instrument} {index : Byte} {value : BitVec 16}

theorem exec_setParam_of_loaded (hv : validHandle Config.hw s v = true)
    (hld : (s.voice v).loaded = true) :
    exec (.setParam v index value) s =
      .next ((s.setVoice v { s.voice v with
        instrument := writeParam (s.voice v).instrument index value }).respond statusOk) :=
  if_pos (by simp [holdsInstrument, hv, hld])

/-- On a synth each index has its own vibrato register, so the three tests exclude each other. -/
theorem writeParam_synth (hk : x.kind = .wavetableSynth) :
    writeParam x index value =
      { x with
        vibratoDelay := if index = 11 then clampByte value.toNat 255 else x.vibratoDelay
        vibratoSpeed := if index = 12 then clampByte value.toNat 255 else x.vibratoSpeed
        vibratoDepth := if index = 13 then clampByte value.toNat 255 else x.vibratoDepth } := by
  unfold writeParam
  split
  · by_cases delay : index = 11
    · subst delay; rfl
    · by_cases speed : index = 12
      · subst speed; rfl
      · by_cases depth : index = 13
        · subst depth; rfl
        · simp only [delay, speed, depth, if_false]
  · rename_i pcm
    cases hk.symm.trans pcm

theorem writeParam_pcm (hk : x.kind = .pcmSample) :
    writeParam x index value =
      if index = 15 then
        { x with
          pcmVolume := clampByte value.toNat 64, attackLevel := clampByte value.toNat 64
          decayLevel := clampByte value.toNat 64, sustainLevel := clampByte value.toNat 64 }
      else x := by
  simp only [writeParam, hk]

end

/-- Settles O33: the kind picks the equation of the parameter write. -/
theorem setParamWrites : Obligations.SetParamWrites := by
  intro s v index value hv hld
  exact ⟨_, _, exec_setParam_of_loaded hv hld, setVoice_respond_kept s v _ _, rfl,
    setVoice_voice_self s v _, fun synth => writeParam_synth synth,
    fun pcm volume => (writeParam_pcm pcm).trans (if_pos volume),
    fun pcm other => (writeParam_pcm pcm).trans (if_neg other)⟩

/-! ## A voice that holds no instrument (R216, R221, R222) -/

/-- Settles O34: the three commands test `V.loaded`. -/
theorem unloadedVoiceIgnores : Obligations.UnloadedVoiceIgnores := by
  intro s v unloaded
  have empty : ¬ holdsInstrument Config.hw s v = true := by simp [holdsInstrument, unloaded]
  exact ⟨fun _ _ => if_neg empty, fun _ _ => if_neg empty, fun _ => if_neg empty⟩

/-! ## GET_PARAM (R222; 30_encoding.md R95) -/

section
variable {s : State} {v : Handle} {x : Instrument} {index : Byte}

theorem exec_getParam_of_loaded (hv : validHandle Config.hw s v = true)
    (hld : (s.voice v).loaded = true) {code : Int}
    (reads : readParam (s.voice v).instrument index = statusWord code) :
    exec (.getParam v index) s = .next (s.answered code) := by
  rw [← respond_statusWord, ← reads]
  exact if_pos (by simp [holdsInstrument, hv, hld])

theorem readKind_eq_statusWord (k : InstrumentKind) :
    readKind k = statusWord (if k = .wavetableSynth then 0 else 1) := by
  cases k <;> rfl

/-- The three fields of entry k stand at the table's bytes 3k, 3k + 1 and 3k + 2. -/
theorem readSeq_entry (seq : Vector SeqEntry 16) (k : Fin 16) :
    readSeq seq (3 * k) = readUnsigned seq[k].wave ∧
    readSeq seq (3 * k + 1) = readSigned seq[k].transpose ∧
    readSeq seq (3 * k + 2) = readUnsigned seq[k].effect := by
  refine ⟨?_, ?_, ?_⟩ <;> simp [readSeq, Nat.mul_add_div]

theorem paramIndex_toNat {n : ℕ} (h : n < 256) : (BitVec.ofNat 8 n).toNat = n :=
  Nat.mod_eq_of_lt h

theorem readParam_seqByte (x : Instrument) {n : ℕ} (h : n < 48) :
    readParam x (BitVec.ofNat 8 (16 + n)) = readSeq x.seq n := by
  have offset : (BitVec.ofNat 8 (16 + n)).toNat = 16 + n := paramIndex_toNat (by omega)
  rw [readParam_seq x (by omega) (by omega), offset, Nat.add_sub_cancel_left]

theorem readParam_seqEntry (x : Instrument) (k : Fin 16) :
    readParam x (BitVec.ofNat 8 (16 + 3 * k)) = statusWord x.seq[k].wave.toNat ∧
    readParam x (BitVec.ofNat 8 (17 + 3 * k)) = statusWord x.seq[k].transpose.toInt ∧
    readParam x (BitVec.ofNat 8 (18 + 3 * k)) = statusWord x.seq[k].effect.toNat := by
  obtain ⟨wave, transpose, effect⟩ := readSeq_entry x.seq k
  have second : 17 + 3 * (k : ℕ) = 16 + (3 * k + 1) := by omega
  have third : 18 + 3 * (k : ℕ) = 16 + (3 * k + 2) := by omega
  rw [second, third, readParam_seqByte x (by omega), readParam_seqByte x (by omega),
    readParam_seqByte x (by omega), wave, transpose, effect]
  exact ⟨readUnsigned_eq_statusWord _, readSigned_eq_statusWord _, readUnsigned_eq_statusWord _⟩

theorem readParam_arpEntry (x : Instrument) (k : Fin 16) :
    readParam x (BitVec.ofNat 8 (64 + k)) = statusWord x.arp[k].toInt := by
  have offset : (BitVec.ofNat 8 (64 + k)).toNat = k + 64 := by
    rw [paramIndex_toNat (by omega), Nat.add_comm]
  exact (readParam_arp x offset).trans (readSigned_eq_statusWord _)

theorem readParam_reserved (x : Instrument) (h : 84 ≤ index.toNat) :
    readParam x index = statusWord 0 := by
  unfold readParam
  generalize index.toNat = n at h ⊢
  obtain ⟨k, rfl⟩ := Nat.exists_eq_add_of_le' h
  have pastSeq : ¬ k + 84 < 64 := by omega
  have pastArp : ¬ k + 84 < 80 := by omega
  simp [pastSeq, pastArp, statusWord]

end

/-- Settles O35: each index reads one register, as the response word of its number. -/
theorem getParamReads : Obligations.GetParamReads := by
  rintro s v x hv hld rfl
  have answers {index : Byte} {code : Int}
      (reads : readParam (s.voice v).instrument index = statusWord code) :
      exec (.getParam v index) s = .next (s.answered code) := exec_getParam_of_loaded hv hld reads
  have register {index b : Byte}
      (reads : readParam (s.voice v).instrument index = readUnsigned b) :
      exec (.getParam v index) s = .next (s.answered b.toNat) :=
    answers (reads.trans (readUnsigned_eq_statusWord b))
  have word {index : Byte} {w : Word} (reads : readParam (s.voice v).instrument index = w) :
      exec (.getParam v index) s = .next (s.answered w.toNat) :=
    answers (reads.trans (word_eq_statusWord w))
  refine ⟨answers (readKind_eq_statusWord _), register rfl, register rfl, register rfl, register rfl,
    register rfl, register rfl, register rfl, register rfl, register rfl, register rfl, register rfl,
    register rfl, register rfl, register rfl, register rfl, fun k => ?_,
    answers (readSigned_eq_statusWord _), word rfl, word rfl, word rfl,
    fun _ reserved => answers (readParam_reserved _ reserved)⟩
  obtain ⟨wave, transpose, effect⟩ := readParam_seqEntry (s.voice v).instrument k
  exact ⟨answers wave, answers transpose, answers effect, answers (readParam_arpEntry _ k)⟩

end Sys2Proof.Proofs

/-! PROOFS of the family 60_exceptions: when a handle is valid, what an invalid handle is answered, and
that an error response changes no state. -/

namespace Sys2Proof.Proofs

open Sys2Proof.Machine Sys2Proof.Laws

/-! ## Valid and invalid handles (60_exceptions.md R243, R244) -/

section
variable {cfg : Config} {s : State} {v : Handle}

theorem validHandle_iff : validHandle cfg s v = true ↔
    s.valid = true ∧ v.toNat < cfg.nvoices ∧ (s.voice v).allocated = true := by
  refine ⟨validHandle_spec, ?_⟩
  rintro ⟨context, inPool, allocated⟩
  simp [validHandle, context, inPool, allocated]

theorem validHandle_of_no_context (noContext : s.valid = false) : validHandle cfg s v = false := by
  refine Bool.eq_false_iff.mpr fun hv => ?_
  obtain ⟨context, _, _⟩ := validHandle_iff.mp hv
  simp [noContext] at context

/-- No instrument is held through an invalid handle, whatever the slot has loaded (R46). -/
theorem not_holdsInstrument_of_invalid (hv : validHandle cfg s v = false) :
    ¬ holdsInstrument cfg s v = true := fun held => by
  obtain ⟨valid, _⟩ := holdsInstrument_spec held
  simp [hv] at valid

end

/-- Settles O14. -/
theorem validHandleMeaning : Obligations.ValidHandleMeaning := fun _ _ => validHandle_iff

/-- Settles O15: every voice command tests the handle before anything else, NOTE_ON, SET_PARAM and
GET_PARAM as part of their test for an instrument; without a Context the handle fails the first test. -/
theorem invalidHandleTable : Obligations.InvalidHandleTable := by
  refine ⟨fun s v hv => ?_, fun s noContext => ?_⟩
  · have invalid : ¬ validHandle Config.hw s v = true := Bool.eq_false_iff.mp hv
    have empty : ¬ holdsInstrument Config.hw s v = true := not_holdsInstrument_of_invalid hv
    have notReleased : ¬ (validHandle Config.hw s v && (s.voice v).envelopeState.releasable) = true := by
      simp [hv]
    exact ⟨if_neg invalid, fun _ => if_neg invalid, fun _ _ => if_neg empty, if_neg notReleased,
      fun _ => exec_render_of_invalid hv, fun _ _ => if_neg empty, fun _ => if_neg empty⟩
  · exact ⟨fun _ => validHandle_of_no_context noContext, exec_dispose_of_no_context noContext,
      exec_createVoice_of_no_context noContext,
      fun rate legal => ⟨_, exec_init_of_legal_rate legal, rfl⟩⟩

/-! ## Error responses (R241, R120) -/

/-- All that a command can do as far as errors go: answer anything and change nothing, as GET_PARAM and
every refusal do; end its writes with a response that is no error; or fault. -/
inductive ErrorOutcome (s : State) : Host.Outcome State Fault Refusal → Prop
  | unchanged (r : Word) : ErrorOutcome s (.next (s.respond r))
  | worked {u : State} {r : Word} (frames : List Frame) (replies : u.replies = s.replies)
      (noError : 0 ≤ r.toInt) : ErrorOutcome s (.next (u.replyWith r frames))
  | fault (e : Fault) : ErrorOutcome s (.fault e)

section
variable {s : State}

/-- A command that writes and responds `OK` makes no error. -/
theorem ErrorOutcome.ok {u : State} (frames : List Frame) (replies : u.replies = s.replies) :
    ErrorOutcome s (.next (u.replyWith statusOk frames)) :=
  .worked frames replies (by decide)

/-- The handle CREATE_VOICE responds is never read as an error code (R213). -/
theorem handle_response_nonneg (v : Handle) : 0 ≤ (v.zeroExtend 32 : Word).toInt := by
  have small : 2 * (v.zeroExtend 32 : Word).toNat < 2 ^ 32 := by bv_omega
  rw [BitVec.toInt_eq_toNat_of_lt small]
  exact Int.natCast_nonneg _

theorem createVoiceWith_errorOutcome (cfg : Config) : ErrorOutcome s (createVoiceWith cfg s) := by
  unfold createVoiceWith
  split
  · split
    · exact .worked [] (resetSlot_replies s _ _) (handle_response_nonneg _)
    · exact .unchanged _
  · exact .unchanged _

theorem loadInstrumentWith_errorOutcome (cfg : Config) (v : Handle) (payload : List Byte) :
    ErrorOutcome s (loadInstrumentWith cfg v payload s) := by
  unfold loadInstrumentWith
  split
  · split
    · exact .unchanged _
    · exact .ok [] (setVoice_replies s v _)
  · exact .unchanged _

theorem renderWith_errorOutcome (cfg : Config) (v : Handle) (n : Operand) :
    ErrorOutcome s (renderWith cfg v n s) := by
  unfold renderWith
  split
  · split
    · exact .fault _
    · exact .ok _ (setVoice_replies s v _)
  · exact .unchanged _

/-- The commands with one test, which do their writes and respond `OK` or change nothing. -/
theorem ErrorOutcome.of_test {test : Prop} [Decidable test] {u : State} {r : Word}
    (replies : u.replies = s.replies) :
    ErrorOutcome s (if test then .next (u.respond statusOk) else .next (s.respond r)) := by
  split
  · exact .ok [] replies
  · exact .unchanged _

theorem getParamWith_errorOutcome (cfg : Config) (v : Handle) (index : Byte) :
    ErrorOutcome s (getParamWith cfg v index s) := by
  unfold getParamWith
  split <;> exact .unchanged _

theorem execInit_errorOutcome (rate : Operand) : ErrorOutcome s (execInit rate s) := by
  unfold execInit
  split
  · exact .unchanged _
  · exact .ok [] (freeAllSlots_replies s)

theorem exec_errorOutcome (i : Instr) (s : State) : ErrorOutcome s (exec i s) := by
  cases i with
  | init rate => exact execInit_errorOutcome rate
  | dispose => exact .of_test (freeAllSlots_replies s)
  | createVoice => exact createVoiceWith_errorOutcome Config.hw
  | destroyVoice v => exact .of_test (resetSlot_replies s v false)
  | loadInstrument v payload => exact loadInstrumentWith_errorOutcome Config.hw v payload
  | noteOn v note velocity => exact .of_test (setVoice_replies s v _)
  | noteOff v => exact .of_test (setVoice_replies s v _)
  | render v n => exact renderWith_errorOutcome Config.hw v n
  | setParam v index value => exact .of_test (setVoice_replies s v _)
  | getParam v index => exact getParamWith_errorOutcome Config.hw v index

/-- An error response comes from the branch that changes nothing. -/
theorem ErrorOutcome.of_negative {t : State} {r : Reply} (out : ErrorOutcome s (.next t))
    (reply : t.replies = s.replies ++ [r]) (negative : r.response.toInt < 0) :
    t = { s with replies := s.replies ++ [r] } ∧ r.frames = [] := by
  cases out with
  | unchanged w =>
    cases List.append_cancel_left reply
    exact ⟨rfl, rfl⟩
  | worked frames replies noError =>
    rw [replyWith_replies, replies] at reply
    cases List.append_cancel_left reply
    exact absurd negative (not_lt.mpr noError)

end

/-- Settles O16: the step performs a command, or answers a reserved opcode, which changes nothing. -/
theorem errorsChangeNothing : Obligations.ErrorsChangeNothing := by
  intro s t c rest r hc h reply negative
  rcases step_cases h with ⟨waiting, _⟩ | ⟨c', rest', hc', ⟨i, _, hexec⟩ | ⟨_, rfl⟩⟩
  · cases hc.symm.trans waiting
  · cases hc.symm.trans hc'
    have out := exec_errorOutcome i { s with commands := rest }
    rw [hexec] at out
    exact out.of_negative reply negative
  · cases hc.symm.trans hc'
    exact (ErrorOutcome.unchanged errBadCommand).of_negative reply negative

end Sys2Proof.Proofs
